-- ==== Sys2Proof/Word.lean ====
section
/-! DEFINITION. The word types of the HS450 CSC core (spec/00_scope.md R5, R6): a byte, the 16-bit
dimensions, the 34-bit lengths and buffer indices, the 2-bit operation code. -/

namespace Sys2Proof

/-- One byte: a channel sample, a wire byte, the SLOT register (R5, R6, R14). -/
abbrev Byte := BitVec 8

/-- A frame dimension W or H, 16 bits unsigned (R5, R15). -/
abbrev Dim := BitVec 16

/-- A byte count or buffer index, 34 bits unsigned: FLEN, PLEN, CNT, EXP (R16, R22, R24, R40). -/
abbrev Len := BitVec 34

/-- The value of the OP register, 2 bits (R13). -/
abbrev OpCode := BitVec 2

/-- The number of a host register, 4 bits (R40). -/
abbrev RegNumber := BitVec 4

end Sys2Proof
end

