-- ==== Sys2Proof/Config.lean ====
section
/-! DEFINITION. What the spec leaves to the implementation: the default of the capacity parameter
MAXPIX (R5, D15) and the free value that a host read of something holding no value returns
(R27, U6). -/

namespace Sys2Proof.Config

/-- MAXPIX's default, 65535*65535: no restriction beyond the 16-bit fields (R5, D15). The parameter
itself is the field `maxPix` of State, so that a statement ranges over every value of it. -/
def defaultMaxPix : Nat := 65535 * 65535

/-- The value the host sees when it reads a register, or a buffer byte, that holds no value: an
unspecified value that no claim may depend on (R27, R41, U6). It has no body; the step applies it to
the counter `freeCtr` of State, so that two such reads need not agree. Assumption log 4. -/
opaque freeRead : Nat → Len

end Sys2Proof.Config
end

