-- ==== Sys2Proof/Syntax.lean ====
section
/-! DEFINITION. The instructions: one constructor for each row of spec/opcode_table.json (R68). -/

namespace Sys2Proof

/-- Every encoding that selects an action, and the three datapath functions that have none (R68). -/
inductive Instr where
  /-- GET1, command byte 0x21: get, slot 1 (R61, R120, R127). -/
  | get1
  /-- GET2, command byte 0x31: get, slot 2 (R61, R120, R127). -/
  | get2
  /-- GET3, command byte 0x41: get, slot 3 (R61, R120, R127). -/
  | get3
  /-- GET4, command byte 0x51: get, slot 4 (R61, R120, R127). -/
  | get4
  /-- PUT1, command byte 0x24: put, slot 1 (R61, R121, R129). -/
  | put1
  /-- PUT2, command byte 0x34: put, slot 2 (R61, R121, R129). -/
  | put2
  /-- PUT3, command byte 0x44: put, slot 3 (R61, R121, R129). -/
  | put3
  /-- PUT4, command byte 0x54: put, slot 4 (R61, R121, R129). -/
  | put4
  /-- GETACK, acknowledgement byte 0x10: the device's header follows (R62, R125). -/
  | getack
  /-- PUTACK, acknowledgement byte 0xAC: ready to receive, or store complete (R62, R126). -/
  | putack
  /-- GET, OP = 0: fetch the frame of a slot into FULL (R13, R143). -/
  | get
  /-- PUT, OP = 1: store the frame of FULL to a slot (R13, R144). -/
  | put
  /-- DECODE, OP = 2: PACKED to FULL (R13, R145). -/
  | decode
  /-- ENCODE, OP = 3: FULL to PACKED (R13, R146). -/
  | encode
  /-- YCBCR2RGB, a datapath function without encoding: one pixel Y, Cb, Cr to R, G, B (R82). -/
  | ycbcr2rgb (y cb cr : Byte)
  /-- RGB2YCBCR, a datapath function without encoding: one pixel R, G, B to Y, Cb, Cr (R83). -/
  | rgb2ycbcr (r g b : Byte)
  /-- AVG2, a datapath function without encoding: truncating mean of two chroma samples (R100). -/
  | avg2 (c1 c2 : Byte)
deriving DecidableEq, Repr

end Sys2Proof
end

