-- ==== Sys2Proof/Machine/State.lean ====
section
/-! DEFINITION. The state of the core (spec/10_state.md), with the wire of its transport and the
moves of the host as plain data, and the state after reset (R30). -/

namespace Sys2Proof.Machine

/-- A frame buffer: the bytes that hold a value, as (index, byte) pairs, indices strictly rising. An
unlisted index holds no value (R19, R20, R27). -/
abbrev Memory := List Host.Cell

/-- The canonical form of a buffer: strictly rising indices. No entry can equal what an unlisted
index reads as, since that is "no value". -/
abbrev Memory.wf (m : Memory) : Prop := List.Pairwise (fun a b : Host.Cell => a.1 < b.1) m

/-- STATUS, register 7 (R17). -/
inductive Status where
  /-- 0: no operation has run since reset. -/
  | idle
  /-- 1: an operation is running. -/
  | busy
  /-- 2: the last operation completed every step. -/
  | done
  /-- 3: the last operation was aborted by a fault. -/
  | error
deriving DecidableEq, Repr

/-- ERR, register 8: the faults of the core (R18, R160). Codes 6 and 7 are never produced (U11). -/
inductive ErrCode where
  /-- 0. -/
  | none
  /-- 1: SLOT outside 1 to 4 (R161). -/
  | invalidSlot
  /-- 2: a wrong acknowledgement byte, or end of stream (R162). -/
  | protocolViolation
  /-- 3: a length or dimension fault (R163). -/
  | formatError
  /-- 4: the transport's deadline passed (R164). -/
  | transportTimeout
  /-- 5: the transport failed or was closed (R165). -/
  | transportError
deriving DecidableEq, Repr

/-- PHASE, the sequencer's place in the operation: it plays the part of a program counter (R21). -/
inductive Phase where
  /-- No operation runs. -/
  | idle
  /-- GET: check slot, send command byte. -/
  | gCmd
  /-- GET: receive and check 0x10. -/
  | gAck
  /-- GET: receive 4 header bytes, check W, H. -/
  | gHdr
  /-- GET: receive W*H*2 payload bytes. -/
  | gPay
  /-- GET: length check, decode. -/
  | gDec
  /-- PUT: check lengths, encode. -/
  | pPrep
  /-- PUT: check slot, send command byte. -/
  | pCmd
  /-- PUT: receive and check 0xAC. -/
  | pAck1
  /-- PUT: send 4 header bytes. -/
  | pHdr
  /-- PUT: send W*H*2 payload bytes. -/
  | pPay
  /-- PUT: receive and check 0xAC. -/
  | pAck2
  /-- DECODE: length check, decode. -/
  | cDec
  /-- ENCODE: length check, encode. -/
  | cEnc
deriving DecidableEq, Repr

/-- The four host operations (R13). -/
inductive HostOp where
  /-- The source's `Get` (R143). -/
  | get
  /-- The source's `Put` (R144). -/
  | put
  /-- The source's `packedToFull` (R145). -/
  | decode
  /-- The source's `fullToPacked` (R146). -/
  | encode
deriving DecidableEq, Repr

/-- HDR, the four header bytes in wire order; each may hold no value (R23). -/
structure Hdr where
  b0 : Option Byte
  b1 : Option Byte
  b2 : Option Byte
  b3 : Option Byte
deriving DecidableEq, Repr

/-- The environment's answers to `tx` (R122). -/
inductive TxAnswer where
  /-- The byte was taken. -/
  | txOk
  /-- The transport's deadline passed. -/
  | txTimeout
  /-- The transport has failed or been closed. -/
  | txError
deriving DecidableEq, Repr

/-- The environment's answers to `rx` (R122). -/
inductive RxAnswer where
  /-- The next byte of the stream. -/
  | rxByte (b : Byte)
  /-- The device closed the stream. -/
  | rxEos
  /-- The transport's deadline passed. -/
  | rxTimeout
  /-- The transport has failed or been closed locally. -/
  | rxError
deriving DecidableEq, Repr

/-- The two buffer windows of the host interface (R11, R19, R20). -/
inductive Buffer where
  /-- FULL, the full-colour frame buffer (R19). -/
  | full
  /-- PACKED, the packed frame buffer (R20). -/
  | packed
deriving DecidableEq, Repr

/-- One move at the host port or the reset input (R10, R11, R30), or the host leaving the turn to the
sequencer. Assumption log 2. -/
inductive Input where
  /-- The host does nothing this turn: the sequencer moves. -/
  | proceed
  /-- The host writes `v` to register number `n` (R11); number 0 with bit 0 set is START (R25). -/
  | writeReg (n : RegNumber) (v : Len)
  /-- The host reads register number `n` (R11). -/
  | readReg (n : RegNumber)
  /-- The host writes byte `b` at index `i` of a buffer window (R11). -/
  | writeByte (buf : Buffer) (i : Len) (b : Byte)
  /-- The host reads the byte at index `i` of a buffer window (R11). -/
  | readByte (buf : Buffer) (i : Len)
  /-- The host assigns a whole buffer, which also sets its length register (R7). -/
  | load (buf : Buffer) (bytes : List Byte)
  /-- The reset input is asserted and released (R30, R190). -/
  | reset
deriving DecidableEq, Repr

/-- The state of the machine. A field of type `Option` is `none` while the register "holds no value",
which is a state the spec gives it (R27). -/
structure State where
  /-- OP, register 1 (R13). -/
  op : Option OpCode
  /-- SLOT, register 2 (R14). -/
  slot : Option Byte
  /-- W, register 3 (R15). -/
  w : Option Dim
  /-- H, register 4 (R15). -/
  h : Option Dim
  /-- FLEN, register 5: the number of valid bytes in FULL (R16). -/
  flen : Option Len
  /-- PLEN, register 6: the number of valid bytes in PACKED (R16). -/
  plen : Option Len
  /-- STATUS, register 7 (R17). -/
  status : Status
  /-- ERR, register 8 (R18). -/
  err : ErrCode
  /-- FULL, the full-colour frame buffer (R19). -/
  full : Option Memory
  /-- PACKED, the packed frame buffer (R20). -/
  packed : Option Memory
  /-- PHASE, hidden (R21). -/
  phase : Phase
  /-- CNT, hidden: bytes transferred in the current multi-byte phase (R22). -/
  cnt : Option Len
  /-- HDR, hidden: the header bytes in wire order (R23). -/
  hdr : Hdr
  /-- EXP, hidden: the expected payload length (R24). -/
  exp : Option Len
  /-- The TX stream: every byte the transport has taken, oldest first (R40, R54, R122). -/
  tx : List Byte
  /-- The environment's answers to the `tx` requests to come, the next one first (R10, R122). An empty
  list is an environment that has not answered (R200). -/
  txAns : List TxAnswer
  /-- The RX stream: the environment's answers to the `rx` requests to come, the next one first (R10,
  R54, R122, R131). An empty list is an environment that has not answered (R200). -/
  rx : List RxAnswer
  /-- The model's own: the moves of the host and the reset input to come, the next one first (R10). -/
  inputs : List Input
  /-- The model's own: what the host's last read returned; `none` before the first read. -/
  rdata : Option Len
  /-- The model's own: what the last datapath function run by itself returned (R82, R83, R100). -/
  dpOut : List Byte
  /-- The model's own: how many free values host reads have taken (R27, U6). -/
  freeCtr : Nat
  /-- MAXPIX, the capacity parameter: the largest W*H the buffers hold (R5, R199). No step changes
  it. -/
  maxPix : Nat
deriving DecidableEq, Repr

/-- HDR holding no value (R27, R30). -/
def Hdr.void : Hdr := ⟨none, none, none, none⟩

/-- The machine right after reset (R30): STATUS IDLE, ERR NONE, PHASE IDLE, every other register and
both buffers holding no value; nothing on the wire. MAXPIX at its default (R5). -/
def State.reset : State where
  op := none
  slot := none
  w := none
  h := none
  flen := none
  plen := none
  status := .idle
  err := .none
  full := none
  packed := none
  phase := .idle
  cnt := none
  hdr := Hdr.void
  exp := none
  tx := []
  txAns := []
  rx := []
  inputs := []
  rdata := none
  dpOut := []
  freeCtr := 0
  maxPix := Config.defaultMaxPix

/-- Why the machine stops with a fault. The five faults of the CORE (R160) are no such stop: they end
the operation in a next state with STATUS and ERR written (R167). -/
inductive Fault where
  /-- Raised by a host access to register number 9 to 15: the host interface has nine registers,
  numbered 0 to 8 (R11). Safe: the spec gives such an access no effect. -/
  | noSuchRegister
deriving DecidableEq, Repr

/-- Why the model has no step. -/
inductive Refusal where
  /-- Raised by an arm of exec whose instruction has no meaning yet; no arm does. Safe. -/
  | notModelled (mnemonic : String)
  /-- Raised by a host write, a buffer write or a START while STATUS = BUSY: "a refused step of the
  host" (R11, R25, R195, U4). Safe. -/
  | hostWhileBusy
  /-- Raised by a START whose operation would read a register or buffer that holds no value (R27,
  R149, R196). Safe. -/
  | absentInput
  /-- Raised by a START whose frame exceeds MAXPIX, by a GET header that declares more than MAXPIX
  pixels, and by a whole-buffer load longer than a length register can say (R41, R199, U5). Safe. -/
  | overCapacity
  /-- Raised by a command or acknowledgement instruction in a phase that has no such step: the
  sequence of R21 is fixed. No step of the machine runs an instruction so. Safe. -/
  | outOfSequence
  /-- Raised where a phase would read CNT, HDR, EXP or a request register that holds no value. No run
  reaches such a state (the invariant of Safety.lean). Safe. -/
  | hiddenAbsent
deriving DecidableEq, Repr

/-- What a meaning answers. -/
abbrev Result := Host.Outcome State Fault Refusal

end Sys2Proof.Machine
end

