-- ==== Sys2Proof/Machine/Ops.lean ====
section
/-! DEFINITION. The operations the meanings share: the buffers as memories (R19, R20, R41), the
registers an operation voids (R28, R29), the abort (R167), the completion (R140), and the transport
primitives `tx` and `rx` (R122 to R124). -/

namespace Sys2Proof.Machine

/-! ### Buffers -/

/-- The byte at an index, `none` where the buffer holds no value (R27, R41). -/
def Memory.read : Memory → Nat → Option Byte
  | [], _ => none
  | (a, b) :: m, k => if a = k then some b else Memory.read m k

/-- Write one byte, keeping the indices strictly rising. -/
def Memory.write : Memory → Nat → Byte → Memory
  | [], k, v => [(k, v)]
  | (a, b) :: m, k, v =>
    if k < a then (k, v) :: (a, b) :: m
    else if k = a then (k, v) :: m
    else (a, b) :: Memory.write m k v

/-- A byte sequence laid out from an index on. -/
def Memory.layout : Nat → List Byte → Memory
  | _, [] => []
  | k, b :: bs => (k, b) :: Memory.layout (k + 1) bs

/-- A whole-buffer assignment: the bytes from index 0 on (R7, R19, R20). -/
def Memory.ofBytes (bs : List Byte) : Memory := Memory.layout 0 bs

/-- The bytes at indices `k` to `n - 1`, `none` if one of them holds no value. -/
def Memory.bytesFrom : Memory → Nat → Nat → Option (List Byte)
  | [], k, n => if n ≤ k then some [] else none
  | (a, b) :: m, k, n =>
    if n ≤ k then some []
    else if a = k then (Memory.bytesFrom m (k + 1) n).map (b :: ·)
    else none

/-- The valid content of a buffer whose length register says `n`: bytes 0 to n - 1 (R19, R20). -/
def Memory.firstBytes (m : Memory) (n : Nat) : Option (List Byte) := Memory.bytesFrom m 0 n

/-- A buffer's valid content under its length register; `none` if the length register, the buffer or
one of the bytes holds no value (R27). -/
def contentOf (len : Option Len) (buf : Option Memory) : Option (List Byte) :=
  match len, buf with
  | some n, some m => Memory.firstBytes m n.toNat
  | _, _ => none

/-! ### Leaving an operation; START, the way in, is FrameTransfer.lean's -/

/-- The operation a phase belongs to (R21). -/
def Phase.op : Phase → Option HostOp
  | .idle => none
  | .gCmd => some .get
  | .gAck => some .get
  | .gHdr => some .get
  | .gPay => some .get
  | .gDec => some .get
  | .pPrep => some .put
  | .pCmd => some .put
  | .pAck1 => some .put
  | .pHdr => some .put
  | .pPay => some .put
  | .pAck2 => some .put
  | .cDec => some .decode
  | .cEnc => some .encode

/-- The first phase of an operation (R149). -/
def HostOp.firstPhase : HostOp → Phase
  | .get => .gCmd
  | .put => .pPrep
  | .decode => .cDec
  | .encode => .cEnc

/-- Every "out" and "void" register and buffer of the operation holds no value (R28, R29). -/
def State.voidFor (o : HostOp) (s : State) : State :=
  match o with
  | .get => { s with w := none, h := none, flen := none, full := none, plen := none, packed := none }
  | .put => { s with plen := none, packed := none }
  | .decode => { s with flen := none, full := none }
  | .encode => { s with plen := none, packed := none }

/-- CNT, HDR, EXP hold no value (R28 (b), R167). -/
def State.clearHidden (s : State) : State := { s with cnt := none, hdr := Hdr.void, exp := none }

/-- TAKING A FAULT, the abort: ERR to the code, STATUS to ERROR, PHASE to IDLE, every "out" and "void"
of the operation and CNT, HDR, EXP hold no value; nothing is saved (R167). -/
def State.abort (o : HostOp) (c : ErrCode) (s : State) : State :=
  { (s.voidFor o).clearHidden with err := c, status := .error, phase := .idle }

/-- The end of an operation that completed every step, its results written: STATUS to DONE, PHASE to
IDLE (R140), the hidden registers carrying nothing on (R28 (b)). -/
def State.finish (s : State) : State :=
  { s.clearHidden with status := .done, phase := .idle }

/-- Raise a fault: the step answers the aborted state (R167, R168). -/
def raise (o : HostOp) (c : ErrCode) (s : State) : Result := .next (s.abort o c)

/-! ### The transport -/

/-- The transport has taken `b`: it is on TX, and the answer is used up (R122). -/
def State.sent (b : Byte) (as : List TxAnswer) (s : State) : State :=
  { s with tx := s.tx ++ [b], txAns := as }

/-- `tx(b)` (R122): on TxOk go on with `k`; TxTimeout and TxError raise (R123); without an answer the
sequencer waits, changing nothing (R200). -/
def withTx (o : HostOp) (b : Byte) (s : State) (k : State → Result) : Result :=
  match s.txAns with
  | [] => .next s
  | .txOk :: as => k (s.sent b as)
  | .txTimeout :: as => raise o .transportTimeout { s with txAns := as }
  | .txError :: as => raise o .transportError { s with txAns := as }

/-- `rx()` (R122): on RxByte go on with `k`; RxEos raises ProtocolViolation, RxTimeout and RxError
their faults (R124); without an answer the sequencer waits, changing nothing (R200). -/
def withRx (o : HostOp) (s : State) (k : Byte → State → Result) : Result :=
  match s.rx with
  | [] => .next s
  | .rxByte b :: as => k b { s with rx := as }
  | .rxEos :: as => raise o .protocolViolation { s with rx := as }
  | .rxTimeout :: as => raise o .transportTimeout { s with rx := as }
  | .rxError :: as => raise o .transportError { s with rx := as }

/-- What reset does to a running machine: the core's state takes its reset values; the transport's
streams, the host's moves to come, what the host has already read, and the parameter are not the
core's and stay (R30, R190, R191, R192). -/
def State.afterReset (s : State) : State :=
  { State.reset with
    tx := s.tx
    txAns := s.txAns
    rx := s.rx
    inputs := s.inputs
    rdata := s.rdata
    dpOut := s.dpOut
    freeCtr := s.freeCtr
    maxPix := s.maxPix }

end Sys2Proof.Machine
end

