-- ==== Sys2Proof/Machine/ColorMatrix.lean ====
section
/-! DEFINITION. ColorMatrix (spec/40_colormatrix.md): the limited-range conversions, evaluated exactly
in integers scaled by 1000 (R84, D1). -/

namespace Sys2Proof.Machine

/-- Three channel values of one pixel: (r, g, b) or (y, cb, cr). -/
abbrev Triple := Byte × Byte × Byte

/-- CD(s) = clamp(s, 0, 255000) div 1000: the clamp-and-truncate stage SAT8 on a sum scaled by 1000
(R81, R84). -/
def clampDiv (s : Int) : Byte := BitVec.ofInt 8 (max 0 (min s 255000) / 1000)

/-- The three scaled sums of YCBCR2RGB: M1000 · (y-16, cb-128, cr-128) (R80, R82). -/
def rgbSums (y cb cr : Byte) : Int × Int × Int :=
  let a : Int := (y.toNat : Int) - 16
  let b : Int := (cb.toNat : Int) - 128
  let c : Int := (cr.toNat : Int) - 128
  (1164 * a + 1793 * c, 1164 * a - 213 * b - 533 * c, 1164 * a + 2112 * b)

/-- The three scaled sums of RGB2YCBCR: offset1000 + N1000 · (r, g, b) (R80, R83). -/
def ycbcrSums (r g b : Byte) : Int × Int × Int :=
  let r' : Int := r.toNat
  let g' : Int := g.toNat
  let b' : Int := b.toNat
  (16000 + 183 * r' + 614 * g' + 62 * b',
   128000 - 101 * r' - 339 * g' + 439 * b',
   128000 + 439 * r' - 399 * g' - 40 * b')

/-- Clamp and truncate each channel (R81). -/
def clampTriple (t : Int × Int × Int) : Triple :=
  (clampDiv t.1, clampDiv t.2.1, clampDiv t.2.2)

/-- YCBCR2RGB: one pixel Y, Cb, Cr to R, G, B (R82, R84). -/
def ycbcr2rgb (y cb cr : Byte) : Triple := clampTriple (rgbSums y cb cr)

/-- RGB2YCBCR: one pixel R, G, B to Y, Cb, Cr (R83, R84). -/
def rgb2ycbcr (r g b : Byte) : Triple := clampTriple (ycbcrSums r g b)

/-- What a datapath function returns, put where the model shows it; the function itself reads and
writes no state (R85). Assumption log 5. -/
def State.returned (bs : List Byte) (s : State) : State := { s with dpOut := bs }

/-- YCBCR2RGB run by itself (R82, R85): it returns (r, g, b) and changes nothing of the core. -/
def execYcbcr2rgb (y cb cr : Byte) (s : State) : Result :=
  let t := ycbcr2rgb y cb cr
  .next (s.returned [t.1, t.2.1, t.2.2])

/-- RGB2YCBCR run by itself (R83, R85): it returns (y, cb, cr) and changes nothing of the core. -/
def execRgb2ycbcr (r g b : Byte) (s : State) : Result :=
  let t := rgb2ycbcr r g b
  .next (s.returned [t.1, t.2.1, t.2.2])

end Sys2Proof.Machine
end

