-- ==== Sys2Proof/Machine/PixelCodec.lean ====
section
/-! DEFINITION. PixelCodec (spec/41_pixelcodec.md): the averaging stage, the 4:2:2 unpacker and the
packer. -/

namespace Sys2Proof.Machine

/-- AVG2: the truncating mean of two chroma samples, `(c1 + c2) div 2` (R100). -/
def avg2 (c1 c2 : Byte) : Byte := BitVec.ofNat 8 ((c1.toNat + c2.toNat) / 2)

/-- AVG2 run by itself (R100): it returns one byte and changes nothing of the core. -/
def execAvg2 (c1 c2 : Byte) (s : State) : Result := .next (s.returned [avg2 c1 c2])

/-- One packed group to two pixels; both reuse the group's chroma pair, no interpolation (R65, R102,
R105). -/
def decodeGroup (y1 cb y2 cr : Byte) : List Byte :=
  let p := ycbcr2rgb y1 cb cr
  let q := ycbcr2rgb y2 cb cr
  [p.1, p.2.1, p.2.2, q.1, q.2.1, q.2.2]

/-- Two pixels to one packed group: each converted by itself, the chroma averaged (R66, R103, R106). -/
def encodeGroup (r1 g1 b1 r2 g2 b2 : Byte) : List Byte :=
  let p := rgb2ycbcr r1 g1 b1
  let q := rgb2ycbcr r2 g2 b2
  [p.1, avg2 p.2.1 q.2.1, q.1, avg2 p.2.2 q.2.2]

/-- The groups of a packed buffer in flat order (R101, R102). -/
def decodeGroups : List Byte → List Byte
  | y1 :: cb :: y2 :: cr :: rest => decodeGroup y1 cb y2 cr ++ decodeGroups rest
  | _ => []

/-- The groups of a full-colour buffer in flat order (R101, R103). -/
def encodeGroups : List Byte → List Byte
  | r1 :: g1 :: b1 :: r2 :: g2 :: b2 :: rest => encodeGroup r1 g1 b1 r2 g2 b2 ++ encodeGroups rest
  | _ => []

/-- DECODEBUF: `none` is FormatError, for a length that is not a multiple of 4 (R102, R108). -/
def decodeBuf (p : List Byte) : Option (List Byte) :=
  if p.length % 4 = 0 then some (decodeGroups p) else none

/-- ENCODEBUF: `none` is FormatError, for a length that is not a multiple of 6 (R103, R108). -/
def encodeBuf (f : List Byte) : Option (List Byte) :=
  if f.length % 6 = 0 then some (encodeGroups f) else none

end Sys2Proof.Machine
end

