-- ==== Sys2Proof/WellFormed.lean ====
section
/-! DEFINITION. Formats and well-formedness: which instructions have an encoding, and its width
(R60, R68). -/

namespace Sys2Proof

/-- The formats that carry an instruction (R60, R68). -/
inductive Format where
  /-- The command byte, core to device, 8 bits (R61). -/
  | cmd8
  /-- The acknowledgement byte, device to core, 8 bits (R62). -/
  | ack8
  /-- The host operation code, 2 bits of register OP (R13, R68). -/
  | opreq
  /-- A datapath function: no encoding (R68). -/
  | datapath
deriving DecidableEq, Repr

/-- The format of an instruction's row (R68). -/
def Instr.format : Instr → Format
  | .get1 => .cmd8
  | .get2 => .cmd8
  | .get3 => .cmd8
  | .get4 => .cmd8
  | .put1 => .cmd8
  | .put2 => .cmd8
  | .put3 => .cmd8
  | .put4 => .cmd8
  | .getack => .ack8
  | .putack => .ack8
  | .get => .opreq
  | .put => .opreq
  | .decode => .opreq
  | .encode => .opreq
  | .ycbcr2rgb _ _ _ => .datapath
  | .rgb2ycbcr _ _ _ => .datapath
  | .avg2 _ _ => .datapath

/-- The width of a format's encoding in bits (R60, R68). -/
def Format.width : Format → Nat
  | .cmd8 => 8
  | .ack8 => 8
  | .opreq => 2
  | .datapath => 0

/-- An instruction is well formed as an instruction WORD if its row has an encoding. The datapath
functions have none: "they are invoked only from inside DECODE, ENCODE, GET and PUT" (R68). -/
def Instr.wf (i : Instr) : Bool := i.format != .datapath

end Sys2Proof
end

