-- ==== Sys2Proof/Decode.lean ====
section
/-! DEFINITION. The decoder, total on any bytes and rejecting by name, and the encoder, both from
spec/30_encoding.md R61, R62, R67, R68. -/

namespace Sys2Proof

/-- Why bytes decode to no instruction. -/
inductive DecodeError where
  /-- There is no byte to decode. -/
  | noByte
  /-- The byte is none of the fourteen encodings of R68; R69 gives the others no meaning. -/
  | unassigned (b : Byte)
deriving DecidableEq, Repr

/-- The GET command base (R5, R61). -/
def getBase : Byte := 0x11

/-- The PUT command base (R5, R61). -/
def putBase : Byte := 0x14

/-- The slot stride (R5, R61). -/
def slotStride : Byte := 0x10

/-- The command byte of a base and a slot, `base + slot * 0x10` (R61, R67 (a)). -/
def commandByte (base slot : Byte) : Byte := base + slot * slotStride

/-- GETACK's value (R62). -/
def getAckByte : Byte := 0x10

/-- PUTACK's value (R62). -/
def putAckByte : Byte := 0xAC

/-- The field `sel`, bits 7:4 of a command byte: slot + 1 (R61). -/
def cmdSel (b : Byte) : BitVec 4 := b.extractLsb' 4 4

/-- The field `fn`, bits 3:0 of a command byte: 1 for get, 4 for put (R61). -/
def cmdFn (b : Byte) : BitVec 4 := b.extractLsb' 0 4

/-- A command byte by its fields; every other byte is no command (R61, R69). -/
def decodeCmd8 (b : Byte) : Option Instr :=
  if cmdFn b = 1 then
    if cmdSel b = 2 then some .get1
    else if cmdSel b = 3 then some .get2
    else if cmdSel b = 4 then some .get3
    else if cmdSel b = 5 then some .get4
    else none
  else if cmdFn b = 4 then
    if cmdSel b = 2 then some .put1
    else if cmdSel b = 3 then some .put2
    else if cmdSel b = 4 then some .put3
    else if cmdSel b = 5 then some .put4
    else none
  else none

/-- An acknowledgement byte; the comparison is on all eight bits (R62). -/
def decodeAck8 (b : Byte) : Option Instr :=
  if b = getAckByte then some .getack
  else if b = putAckByte then some .putack
  else none

/-- The operation of the OP register: all four codes are legal (R13, R68). -/
def decodeOpreq (o : OpCode) : Instr :=
  if o = 0 then .get
  else if o = 1 then .put
  else if o = 2 then .decode
  else .encode

/-- An operation code laid out as a byte: the 2 bits of OP, the upper six bits 0. Assumption log 8. -/
def decodeOpByte (b : Byte) : Option Instr :=
  if b.toNat < 4 then some (decodeOpreq (b.setWidth 2)) else none

/-- The decoder: the instruction of the first byte, with the bytes after it; a byte that is none of
the encodings of R68 is rejected by name (R69). The three channels (OP, the command byte, the
acknowledgement byte) use different values, so one decoder serves them. -/
def decode : List Byte → Except DecodeError (Instr × List Byte)
  | [] => .error .noByte
  | b :: rest =>
    match decodeCmd8 b with
    | some i => .ok (i, rest)
    | none =>
      match decodeAck8 b with
      | some i => .ok (i, rest)
      | none =>
        match decodeOpByte b with
        | some i => .ok (i, rest)
        | none => .error (.unassigned b)

/-- The encoder: the byte of an instruction (R61, R62, R68); none for a datapath function, which has
no encoding. -/
def encode : Instr → List Byte
  | .get1 => [commandByte getBase 1]
  | .get2 => [commandByte getBase 2]
  | .get3 => [commandByte getBase 3]
  | .get4 => [commandByte getBase 4]
  | .put1 => [commandByte putBase 1]
  | .put2 => [commandByte putBase 2]
  | .put3 => [commandByte putBase 3]
  | .put4 => [commandByte putBase 4]
  | .getack => [getAckByte]
  | .putack => [putAckByte]
  | .get => [0]
  | .put => [1]
  | .decode => [2]
  | .encode => [3]
  | .ycbcr2rgb _ _ _ => []
  | .rgb2ycbcr _ _ _ => []
  | .avg2 _ _ => []

/-- The `n` lowest bytes of `w`, least significant first. -/
def wordBytes : Nat → Nat → List Byte
  | 0, _ => []
  | n + 1, w => BitVec.ofNat 8 w :: wordBytes n (w / 256)

/-- The instruction the decoder reads from a word of the opcode table of `nbits` bits: its bytes, the
first (least significant) byte first, must be exactly one encoding. -/
def decodeTableWord (nbits w : Nat) : Option Instr :=
  match decode (wordBytes ((nbits + 7) / 8) w) with
  | .ok (i, []) => some i
  | .ok (_, _ :: _) => none
  | .error _ => none

end Sys2Proof
end

