-- ==== Sys2Proof/Machine/Operands.lean ====
section
/-! DEFINITION. Operand assembly (R67): slot to command byte, header bytes to dimensions and back,
dimensions to lengths, and what a START reads (R29, R149, R194, R199). -/

namespace Sys2Proof.Machine

/-- GETCMD: the get command byte of a slot; `none` is InvalidSlot (R120). -/
def getCommand (slot : Byte) : Option Byte :=
  if slot.toNat < 1 ∨ 4 < slot.toNat then none else some (commandByte getBase slot)

/-- PUTCMD: the put command byte of a slot; `none` is InvalidSlot (R121). -/
def putCommand (slot : Byte) : Option Byte :=
  if slot.toNat < 1 ∨ 4 < slot.toNat then none else some (commandByte putBase slot)

/-- HDR[i]; there are four header bytes (R23). -/
def Hdr.get (d : Hdr) : Nat → Option Byte
  | 0 => d.b0
  | 1 => d.b1
  | 2 => d.b2
  | 3 => d.b3
  | _ => none

/-- HDR[i] := b (R23). -/
def Hdr.set (d : Hdr) (i : Nat) (b : Byte) : Hdr :=
  match i with
  | 0 => { d with b0 := some b }
  | 1 => { d with b1 := some b }
  | 2 => { d with b2 := some b }
  | 3 => { d with b3 := some b }
  | _ => d

/-- A big-endian 16-bit number: `hi * 256 + lo` (R45, R67 (b)). -/
def beDim (hi lo : Byte) : Dim := BitVec.ofNat 16 (hi.toNat * 256 + lo.toNat)

/-- The header parse: `Wh = HDR[0]*256 + HDR[1]`, `Hh = HDR[2]*256 + HDR[3]` (R128); `none` while a
byte holds no value. -/
def Hdr.dims (d : Hdr) : Option (Dim × Dim) :=
  match d.b0, d.b1, d.b2, d.b3 with
  | some x0, some x1, some x2, some x3 => some (beDim x0 x1, beDim x2 x3)
  | _, _, _, _ => none

/-- The byte sequence of a header: `[W div 256, W mod 256, H div 256, H mod 256]` (R64, R67 (c)). -/
def headerBytes (w h : Dim) : List Byte :=
  [BitVec.ofNat 8 (w.toNat / 256), BitVec.ofNat 8 (w.toNat % 256),
   BitVec.ofNat 8 (h.toNat / 256), BitVec.ofNat 8 (h.toNat % 256)]

/-- HDR holding the header of W and H (R23, R129). -/
def Hdr.ofDims (w h : Dim) : Hdr :=
  { b0 := some (BitVec.ofNat 8 (w.toNat / 256))
    b1 := some (BitVec.ofNat 8 (w.toNat % 256))
    b2 := some (BitVec.ofNat 8 (h.toNat / 256))
    b3 := some (BitVec.ofNat 8 (h.toNat % 256)) }

/-- W * H, with no wrap (R6, R67 (d)). -/
def pixels (w h : Dim) : Nat := w.toNat * h.toNat

/-- The payload length `W * H * 2`, with no wrap (R24, R67 (d)). -/
def packedLength (w h : Dim) : Nat := pixels w h * 2

/-- The full-colour length `W * H * 3`, with no wrap (R67 (d)). -/
def fullLength (w h : Dim) : Nat := pixels w h * 3

/-- Whether a frame has a zero dimension, which is rejected (R15, D9). -/
def zeroDim (w h : Dim) : Bool := w == 0 || h == 0

/-- Whether every "in" register and buffer of the operation holds a value (R29, R194, R196). -/
def State.inputsPresent (o : HostOp) (s : State) : Bool :=
  match o with
  | .get => s.slot.isSome
  | .put => s.slot.isSome && s.w.isSome && s.h.isSome && (contentOf s.flen s.full).isSome
  | .decode => (contentOf s.plen s.packed).isSome
  | .encode => (contentOf s.flen s.full).isSome

/-- Whether the operation's input exceeds the buffer capacity, at START (R41, R149, R199): the frame
of a PUT by its W*H, the input of DECODE and ENCODE by its length. A GET's frame is not known yet.
Assumption log 9. -/
def State.inputTooLarge (o : HostOp) (s : State) : Bool :=
  match o with
  | .get => false
  | .put =>
    match s.w, s.h with
    | some w, some h => decide (s.maxPix < pixels w h)
    | _, _ => false
  | .decode =>
    match s.plen with
    | some n => decide (2 * s.maxPix < n.toNat)
    | none => false
  | .encode =>
    match s.flen with
    | some n => decide (3 * s.maxPix < n.toNat)
    | none => false

end Sys2Proof.Machine
end

