-- ==== Sys2Proof/Machine/SlotProtocol.lean ====
section
/-! DEFINITION. SlotProtocol (spec/42_slotprotocol.md): the command bytes, the acknowledgement checks
and the header and payload steps of the get and put exchanges, one transport byte a step (R142). -/

namespace Sys2Proof.Machine

/-! ### Command bytes -/

/-- Send a get command byte: `tx(c)`, then G_ACK (R127). -/
def sendGetCommand (c : Byte) (s : State) : Result :=
  withTx .get c s fun t => .next { t with phase := .gAck }

/-- Send a put command byte: `tx(c)`, then P_ACK1 (R129). -/
def sendPutCommand (c : Byte) (s : State) : Result :=
  withTx .put c s fun t => .next { t with phase := .pAck1 }

/-- A get command instruction: it is the step of G_CMD and of no other phase (R21, R69). -/
def getCommandInstr (slot : Byte) (s : State) : Result :=
  if s.phase = .gCmd then sendGetCommand (commandByte getBase slot) s
  else .refused .outOfSequence

/-- A put command instruction: it is the step of P_CMD and of no other phase (R21, R69). -/
def putCommandInstr (slot : Byte) (s : State) : Result :=
  if s.phase = .pCmd then sendPutCommand (commandByte putBase slot) s
  else .refused .outOfSequence

/-- GET1: command byte 0x21 (R120, R127). -/
def execGet1 (s : State) : Result := getCommandInstr 1 s

/-- GET2: command byte 0x31 (R120, R127). -/
def execGet2 (s : State) : Result := getCommandInstr 2 s

/-- GET3: command byte 0x41 (R120, R127). -/
def execGet3 (s : State) : Result := getCommandInstr 3 s

/-- GET4: command byte 0x51 (R120, R127). -/
def execGet4 (s : State) : Result := getCommandInstr 4 s

/-- PUT1: command byte 0x24 (R121, R129). -/
def execPut1 (s : State) : Result := putCommandInstr 1 s

/-- PUT2: command byte 0x34 (R121, R129). -/
def execPut2 (s : State) : Result := putCommandInstr 2 s

/-- PUT3: command byte 0x44 (R121, R129). -/
def execPut3 (s : State) : Result := putCommandInstr 3 s

/-- PUT4: command byte 0x54 (R121, R129). -/
def execPut4 (s : State) : Result := putCommandInstr 4 s

/-- G_CMD: GETCMD of SLOT, which may raise InvalidSlot with nothing sent, then `tx` of the command
byte; one step (R120, R127, R142, R161). -/
def stepGCmd (s : State) : Result :=
  match s.slot with
  | none => .refused .hiddenAbsent
  | some k =>
    match getCommand k with
    | none => raise .get .invalidSlot s
    | some c => sendGetCommand c s

/-- P_CMD: PUTCMD of SLOT, which may raise InvalidSlot with nothing sent, then `tx` of the command
byte; one step (R121, R129, R142, R161). -/
def stepPCmd (s : State) : Result :=
  match s.slot with
  | none => .refused .hiddenAbsent
  | some k =>
    match putCommand k with
    | none => raise .put .invalidSlot s
    | some c => sendPutCommand c s

/-! ### Acknowledgement checks -/

/-- G_ACK, the GETACK check: one `rx()`; 0x10 goes to G_HDR with CNT = 0, any other byte raises
ProtocolViolation (R22, R70, R125). -/
def stepGAck (s : State) : Result :=
  withRx .get s fun b t =>
    if b = getAckByte then .next { t with phase := .gHdr, cnt := some 0 }
    else raise .get .protocolViolation t

/-- P_ACK1, the first PUTACK check: one `rx()`; 0xAC goes to P_HDR with CNT = 0, HDR the header of W
and H and EXP its payload length; any other byte raises ProtocolViolation (R22 to R24, R70, R126).
START has built the same HDR (R23); here it is assigned again, as P_HDR's first line says (R129).
Assumption log 7, 16. -/
def stepPAck1 (s : State) : Result :=
  match s.w, s.h with
  | some w, some h =>
    withRx .put s fun b t =>
      if b = putAckByte then
        .next { t with
          phase := .pHdr
          cnt := some 0
          hdr := Hdr.ofDims w h
          exp := some (BitVec.ofNat 34 (packedLength w h)) }
      else raise .put .protocolViolation t
  | _, _ => .refused .hiddenAbsent

/-- P_ACK2, the second PUTACK check: 0xAC completes the exchange and the PUT, any other byte raises
ProtocolViolation (R17, R126, R144). PACKED and PLEN hold no value afterwards (R29). -/
def stepPAck2 (s : State) : Result :=
  withRx .put s fun b t =>
    if b = putAckByte then .next (t.voidFor .put).finish
    else raise .put .protocolViolation t

/-- GETACK: the check of G_ACK (R125); no other phase has such a step (R21). -/
def execGetack (s : State) : Result :=
  if s.phase = .gAck then stepGAck s else .refused .outOfSequence

/-- PUTACK: the check of P_ACK1 or P_ACK2, by its place in the exchange (R62, R126); no other phase has
such a step (R21). -/
def execPutack (s : State) : Result :=
  if s.phase = .pAck1 then stepPAck1 s
  else if s.phase = .pAck2 then stepPAck2 s
  else .refused .outOfSequence

/-! ### Headers -/

/-- The end of G_HDR, HDR being complete: the zero check (R127), the capacity (R199, U5), EXP, and the
entry to G_PAY with an empty payload (R22, R24). -/
def headerReceived (s : State) : Result :=
  match s.hdr.dims with
  | none => .refused .hiddenAbsent
  | some (w, h) =>
    if zeroDim w h then raise .get .formatError s
    else if s.maxPix < pixels w h then .refused .overCapacity
    else
      .next { s with
        phase := .gPay
        cnt := some 0
        exp := some (BitVec.ofNat 34 (packedLength w h))
        packed := some [] }

/-- G_HDR: `HDR[CNT] = rx()`; the phase ends when CNT reaches 4 (R22, R127). -/
def stepGHdr (s : State) : Result :=
  match s.cnt with
  | none => .refused .hiddenAbsent
  | some c =>
    withRx .get s fun b t =>
      if c + 1 = 4 then headerReceived { t with hdr := t.hdr.set c.toNat b, cnt := some 4 }
      else .next { t with hdr := t.hdr.set c.toNat b, cnt := some (c + 1) }

/-- P_HDR: `tx(HDR[CNT])`; the phase ends when CNT reaches 4 and P_PAY is entered with CNT = 0 (R22,
R129). -/
def stepPHdr (s : State) : Result :=
  match s.cnt with
  | none => .refused .hiddenAbsent
  | some c =>
    match s.hdr.get c.toNat with
    | none => .refused .hiddenAbsent
    | some b =>
      withTx .put b s fun t =>
        if c + 1 = 4 then .next { t with phase := .pPay, cnt := some 0 }
        else .next { t with cnt := some (c + 1) }

/-! ### Payloads -/

/-- G_PAY: one more payload byte into PACKED; the phase ends when CNT reaches EXP (R20, R22, R127,
R130). -/
def stepGPay (s : State) : Result :=
  match s.cnt, s.exp, s.packed with
  | some c, some e, some m =>
    withRx .get s fun b t =>
      let u := { t with packed := some (Memory.write m c.toNat b), cnt := some (c + 1) }
      if c + 1 = e then .next { u with phase := .gDec } else .next u
  | _, _, _ => .refused .hiddenAbsent

/-- P_PAY: `tx(p[CNT])`, p being what PACKED holds; the phase ends when CNT reaches EXP (R20, R22,
R129). -/
def stepPPay (s : State) : Result :=
  match s.cnt, s.exp, s.packed with
  | some c, some e, some m =>
    match Memory.read m c.toNat with
    | none => .refused .hiddenAbsent
    | some b =>
      withTx .put b s fun t =>
        if c + 1 = e then .next { t with phase := .pAck2, cnt := some (c + 1) }
        else .next { t with cnt := some (c + 1) }
  | _, _, _ => .refused .hiddenAbsent

end Sys2Proof.Machine
end

