-- ==== Sys2Proof/Machine/FrameTransfer.lean ====
section
/-! DEFINITION. FrameTransfer (spec/43_frametransfer.md): START, the compute phases, and the four host
operations GET, PUT, DECODE and ENCODE, each one step at a time through its phases (R21, R140 to R149).
An operation's meaning is its next step: START when the sequencer is idle, else the step of the phase
it stands in. Assumption log 3. -/

namespace Sys2Proof.Machine

/-- HDR as the operation starts: a PUT's header is built from W and H at that moment (R23), the other
operations start with none (R28 (b)). -/
def State.startHdr (o : HostOp) (s : State) : Hdr :=
  match o with
  | .get => Hdr.void
  | .put =>
    match s.w, s.h with
    | some w, some h => Hdr.ofDims w h
    | _, _ => Hdr.void
  | .decode => Hdr.void
  | .encode => Hdr.void

/-- START's effect: ERR to NONE, the outputs void, STATUS to BUSY, PHASE to the operation's first
phase (R149), a PUT's HDR built (R23). It is also the only way out of ERROR (R169). -/
def State.begin (o : HostOp) (s : State) : State :=
  { (s.voidFor o).clearHidden with
    err := .none, status := .busy, phase := o.firstPhase, hdr := s.startHdr o }

/-- START of an operation (R149): refused while BUSY (R195), when an "in" register or buffer holds no
value (R196), when the frame exceeds MAXPIX (R199); else the operation begins. -/
def start (o : HostOp) (s : State) : Result :=
  if s.status = .busy then .refused .hostWhileBusy
  else if s.inputsPresent o = false then .refused .absentInput
  else if s.inputTooLarge o then .refused .overCapacity
  else .next (s.begin o)

/-- The results of a GET, at DONE (R29, R143). -/
def State.gotFrame (w h : Dim) (full : List Byte) (s : State) : State :=
  { s.finish with
    w := some w
    h := some h
    full := some (Memory.ofBytes full)
    flen := some (BitVec.ofNat 34 (fullLength w h))
    packed := none
    plen := none }

/-- G_DEC: the length check, then the decode; the results are written at DONE (R143, R147). -/
def stepGDec (s : State) : Result :=
  match s.hdr.dims, contentOf s.cnt s.packed with
  | some (w, h), some p =>
    if p.length ≠ packedLength w h then raise .get .formatError s
    else
      match decodeBuf p with
      | none => raise .get .formatError s
      | some full => .next (s.gotFrame w h full)
  | _, _ => .refused .hiddenAbsent

/-- P_PREP: the zero check, the length check, the encode and the check of its length; PACKED then holds
the frame that is sent (R20, R144, R147). -/
def stepPPrep (s : State) : Result :=
  match s.w, s.h, s.flen, contentOf s.flen s.full with
  | some w, some h, some n, some f =>
    if zeroDim w h then raise .put .formatError s
    else if n.toNat ≠ fullLength w h then raise .put .formatError s
    else
      match encodeBuf f with
      | none => raise .put .formatError s
      | some p =>
        if p.length ≠ packedLength w h then raise .put .formatError s
        else .next { s with packed := some (Memory.ofBytes p), phase := .pCmd }
  | _, _, _, _ => .refused .hiddenAbsent

/-- C_DEC: DECODEBUF of PACKED; FULL and FLEN written at DONE (R145). -/
def stepCDec (s : State) : Result :=
  match s.plen, contentOf s.plen s.packed with
  | some n, some p =>
    match decodeBuf p with
    | none => raise .decode .formatError s
    | some full =>
      .next { s.finish with
        full := some (Memory.ofBytes full)
        flen := some (BitVec.ofNat 34 (n.toNat / 4 * 6)) }
  | _, _ => .refused .hiddenAbsent

/-- C_ENC: ENCODEBUF of FULL; PACKED and PLEN written at DONE (R146). -/
def stepCEnc (s : State) : Result :=
  match s.flen, contentOf s.flen s.full with
  | some n, some f =>
    match encodeBuf f with
    | none => raise .encode .formatError s
    | some p =>
      .next { s.finish with
        packed := some (Memory.ofBytes p)
        plen := some (BitVec.ofNat 34 (n.toNat / 6 * 4)) }
  | _, _ => .refused .hiddenAbsent

/-- GET (R143): START, or the next step of a GET that runs; while another operation runs a START is
refused (R195). -/
def execGet (s : State) : Result :=
  match s.phase with
  | .idle => start .get s
  | .gCmd => stepGCmd s
  | .gAck => stepGAck s
  | .gHdr => stepGHdr s
  | .gPay => stepGPay s
  | .gDec => stepGDec s
  | .pPrep => .refused .hostWhileBusy
  | .pCmd => .refused .hostWhileBusy
  | .pAck1 => .refused .hostWhileBusy
  | .pHdr => .refused .hostWhileBusy
  | .pPay => .refused .hostWhileBusy
  | .pAck2 => .refused .hostWhileBusy
  | .cDec => .refused .hostWhileBusy
  | .cEnc => .refused .hostWhileBusy

/-- PUT (R144): START, or the next step of a PUT that runs; while another operation runs a START is
refused (R195). -/
def execPut (s : State) : Result :=
  match s.phase with
  | .idle => start .put s
  | .pPrep => stepPPrep s
  | .pCmd => stepPCmd s
  | .pAck1 => stepPAck1 s
  | .pHdr => stepPHdr s
  | .pPay => stepPPay s
  | .pAck2 => stepPAck2 s
  | .gCmd => .refused .hostWhileBusy
  | .gAck => .refused .hostWhileBusy
  | .gHdr => .refused .hostWhileBusy
  | .gPay => .refused .hostWhileBusy
  | .gDec => .refused .hostWhileBusy
  | .cDec => .refused .hostWhileBusy
  | .cEnc => .refused .hostWhileBusy

/-- DECODE (R145): START, or the one step of a DECODE that runs; while another operation runs a START
is refused (R195). -/
def execDecode (s : State) : Result :=
  match s.phase with
  | .idle => start .decode s
  | .cDec => stepCDec s
  | .gCmd => .refused .hostWhileBusy
  | .gAck => .refused .hostWhileBusy
  | .gHdr => .refused .hostWhileBusy
  | .gPay => .refused .hostWhileBusy
  | .gDec => .refused .hostWhileBusy
  | .pPrep => .refused .hostWhileBusy
  | .pCmd => .refused .hostWhileBusy
  | .pAck1 => .refused .hostWhileBusy
  | .pHdr => .refused .hostWhileBusy
  | .pPay => .refused .hostWhileBusy
  | .pAck2 => .refused .hostWhileBusy
  | .cEnc => .refused .hostWhileBusy

/-- ENCODE (R146): START, or the one step of an ENCODE that runs; while another operation runs a START
is refused (R195). -/
def execEncode (s : State) : Result :=
  match s.phase with
  | .idle => start .encode s
  | .cEnc => stepCEnc s
  | .gCmd => .refused .hostWhileBusy
  | .gAck => .refused .hostWhileBusy
  | .gHdr => .refused .hostWhileBusy
  | .gPay => .refused .hostWhileBusy
  | .gDec => .refused .hostWhileBusy
  | .pPrep => .refused .hostWhileBusy
  | .pCmd => .refused .hostWhileBusy
  | .pAck1 => .refused .hostWhileBusy
  | .pHdr => .refused .hostWhileBusy
  | .pPay => .refused .hostWhileBusy
  | .pAck2 => .refused .hostWhileBusy
  | .cDec => .refused .hostWhileBusy

end Sys2Proof.Machine
end

