-- ==== Sys2Proof/Machine/Dispatch.lean ====
section
/-! DEFINITION. exec: one arm for each instruction. -/

namespace Sys2Proof.Machine

def exec (i : Instr) (s : State) : Host.Outcome State Fault Refusal :=
  match i with
  | .get1 => Sys2Proof.Machine.execGet1 s
  | .get2 => Sys2Proof.Machine.execGet2 s
  | .get3 => Sys2Proof.Machine.execGet3 s
  | .get4 => Sys2Proof.Machine.execGet4 s
  | .put1 => Sys2Proof.Machine.execPut1 s
  | .put2 => Sys2Proof.Machine.execPut2 s
  | .put3 => Sys2Proof.Machine.execPut3 s
  | .put4 => Sys2Proof.Machine.execPut4 s
  | .getack => Sys2Proof.Machine.execGetack s
  | .putack => Sys2Proof.Machine.execPutack s
  | .get => Sys2Proof.Machine.execGet s
  | .put => Sys2Proof.Machine.execPut s
  | .decode => Sys2Proof.Machine.execDecode s
  | .encode => Sys2Proof.Machine.execEncode s
  | .ycbcr2rgb y cb cr => Sys2Proof.Machine.execYcbcr2rgb y cb cr s
  | .rgb2ycbcr r g b => Sys2Proof.Machine.execRgb2ycbcr r g b s
  | .avg2 c1 c2 => Sys2Proof.Machine.execAvg2 c1 c2 s

end Sys2Proof.Machine
end

