-- ==== Sys2Proof/Machine/Flags.lean ====
section
/-! DEFINITION. The status the host sees: the codes of STATUS and ERR (R17, R18), the outputs `done`
and `err` (R26), and what the core offers and requests on the streams (R30, R122, R167). No datapath
function sets a flag (R17, R81). -/

namespace Sys2Proof.Machine

/-- The code of STATUS (R17). -/
def Status.code : Status → BitVec 2
  | .idle => 0
  | .busy => 1
  | .done => 2
  | .error => 3

/-- The code of ERR (R18, D6). -/
def ErrCode.code : ErrCode → BitVec 3
  | .none => 0
  | .invalidSlot => 1
  | .protocolViolation => 2
  | .formatError => 3
  | .transportTimeout => 4
  | .transportError => 5

/-- The level output `done` (R26). -/
def State.doneOut (s : State) : Bool := s.status == .done

/-- The level output `err` (R26). -/
def State.errOut (s : State) : Bool := s.status == .error

/-- Whether the phase requests a byte on RX (R122, R127, R129). -/
def Phase.requestsRx : Phase → Bool
  | .gAck => true
  | .gHdr => true
  | .gPay => true
  | .pAck1 => true
  | .pAck2 => true
  | .idle => false
  | .gCmd => false
  | .gDec => false
  | .pPrep => false
  | .pCmd => false
  | .pHdr => false
  | .pPay => false
  | .cDec => false
  | .cEnc => false

/-- Whether the phase offers a byte on TX (R122, R127, R129). -/
def Phase.offersTx : Phase → Bool
  | .gCmd => true
  | .pCmd => true
  | .pHdr => true
  | .pPay => true
  | .idle => false
  | .gAck => false
  | .gHdr => false
  | .gPay => false
  | .gDec => false
  | .pPrep => false
  | .pAck1 => false
  | .pAck2 => false
  | .cDec => false
  | .cEnc => false

end Sys2Proof.Machine
end

