-- ==== Sys2Proof/Machine/HostPort.lean ====
section
/-! DEFINITION. The host port (R11 to R20, R25, R27, R195): register and buffer-window reads and
writes. START itself is Fetch.lean's. -/

namespace Sys2Proof.Machine

/-- What a host read returns: the value, zero-extended to the port, or, where the register holds no
value, a free value of the register's width (R27, U6). Reading changes nothing of the core (R51). -/
def State.readValue {k : Nat} (v : Option (BitVec k)) (s : State) : State :=
  match v with
  | some x => { s with rdata := some (x.setWidth 34) }
  | none =>
    { s with
      rdata := some (((Config.freeRead s.freeCtr).setWidth k).setWidth 34)
      freeCtr := s.freeCtr + 1 }

/-- A host read of a register, at any time (R11); CTRL reads 0 (R25); numbers 9 to 15 are no register
(R11). -/
def hostReadReg (n : RegNumber) (s : State) : Result :=
  if n = 0 then .next (s.readValue (some (0 : BitVec 1)))
  else if n = 1 then .next (s.readValue s.op)
  else if n = 2 then .next (s.readValue s.slot)
  else if n = 3 then .next (s.readValue s.w)
  else if n = 4 then .next (s.readValue s.h)
  else if n = 5 then .next (s.readValue s.flen)
  else if n = 6 then .next (s.readValue s.plen)
  else if n = 7 then .next (s.readValue (some s.status.code))
  else if n = 8 then .next (s.readValue (some s.err.code))
  else .fault .noSuchRegister

/-- The length register of a buffer (R16). -/
def State.lengthOf (buf : Buffer) (s : State) : Option Len :=
  match buf with
  | .full => s.flen
  | .packed => s.plen

/-- The content of a buffer (R19, R20). -/
def State.bufferOf (buf : Buffer) (s : State) : Option Memory :=
  match buf with
  | .full => s.full
  | .packed => s.packed

/-- Put a content into a buffer. -/
def State.setBuffer (buf : Buffer) (m : Memory) (s : State) : State :=
  match buf with
  | .full => { s with full := some m }
  | .packed => { s with packed := some m }

/-- Put a value into a buffer's length register. -/
def State.setLength (buf : Buffer) (n : Len) (s : State) : State :=
  match buf with
  | .full => { s with flen := some n }
  | .packed => { s with plen := some n }

/-- The byte the host sees at an index: there is one below the length register only (R41, U6).
DESIGN CHOICE, assumption log 20: while the length register holds no value there is none at any index. -/
def State.windowByte (buf : Buffer) (i : Len) (s : State) : Option Byte :=
  match s.lengthOf buf, s.bufferOf buf with
  | some n, some m => if i.toNat < n.toNat then Memory.read m i.toNat else none
  | _, _ => none

/-- A host read of a buffer window, at any time (R11, R41, U6). -/
def hostReadByte (buf : Buffer) (i : Len) (s : State) : Result :=
  .next (s.readValue (s.windowByte buf i))

/-- A host write of one byte of a buffer window (R11), refused while BUSY (R195). DESIGN CHOICE,
assumption log 21: every index the port can say takes its byte, whatever MAXPIX is. -/
def hostWriteByte (buf : Buffer) (i : Len) (b : Byte) (s : State) : Result :=
  if s.status = .busy then .refused .hostWhileBusy
  else .next (s.setBuffer buf (Memory.write ((s.bufferOf buf).getD []) i.toNat b))

/-- A whole-buffer assignment, which also sets the length register (R7), refused while BUSY (R195) and
for a length that the 34-bit register cannot say (R16), assumption log 10. DESIGN CHOICE, assumption
log 21: a load past 3*MAXPIX or 2*MAXPIX bytes is kept whole. -/
def hostLoad (buf : Buffer) (bytes : List Byte) (s : State) : Result :=
  if s.status = .busy then .refused .hostWhileBusy
  else if 2 ^ 34 ≤ bytes.length then .refused .overCapacity
  else .next ((s.setBuffer buf (Memory.ofBytes bytes)).setLength buf (BitVec.ofNat 34 bytes.length))

/-- A host write of a register other than START (R11): numbers 9 to 15 are no register; refused while
BUSY (R195); CTRL without bit 0 does nothing (R25); STATUS and ERR ignore it; a register narrower than
the port takes the low bits. Assumption log 10. -/
def hostWriteReg (n : RegNumber) (v : Len) (s : State) : Result :=
  if 8 < n.toNat then .fault .noSuchRegister
  else if s.status = .busy then .refused .hostWhileBusy
  else if n = 1 then .next { s with op := some (v.setWidth 2) }
  else if n = 2 then .next { s with slot := some (v.setWidth 8) }
  else if n = 3 then .next { s with w := some (v.setWidth 16) }
  else if n = 4 then .next { s with h := some (v.setWidth 16) }
  else if n = 5 then .next { s with flen := some v }
  else if n = 6 then .next { s with plen := some v }
  else .next s

/-- Whether a register write is a START: register 0, bit 0 set (R25). -/
def isStart (n : RegNumber) (v : Len) : Bool := n == 0 && v.getLsbD 0

end Sys2Proof.Machine
end

