-- ==== Sys2Proof/Machine/Fetch.lean ====
section
/-! DEFINITION. Which instruction the next step runs. The core has no instruction memory (R57): its
instruction comes from the OP register at START (R149), from SLOT through the command byte in G_CMD
and P_CMD (R120, R121), and from PHASE everywhere else (R21). Assumption log 2, 3. -/

namespace Sys2Proof.Machine

/-- What the next step does: run an instruction at a state, or a move that is no instruction. -/
inductive Turn where
  /-- Run `i` at `s`. -/
  | run (i : Instr) (s : State)
  /-- A move of the host, the reset, or an idle step. -/
  | settled (r : Result)

/-- START fetches its operation from OP (R13, R149); refused while BUSY (R195) and while OP holds no
value (R196). -/
def fetchStart (s : State) : Turn :=
  if s.status = .busy then .settled (.refused .hostWhileBusy)
  else
    match s.op with
    | none => .settled (.refused .absentInput)
    | some o => .run (decodeOpreq o) s

/-- The instruction of a command byte, if it is one; the operation itself (`whole`) where SLOT gives no
command byte, since the InvalidSlot it then raises is the operation's own step (R142, R161). -/
def commandInstr (whole : Instr) (c : Option Byte) : Instr :=
  match c with
  | none => whole
  | some b =>
    match decode [b] with
    | .ok (i, _) => i
    | .error _ => whole

/-- The sequencer's next instruction, by PHASE (R21); none while idle (R169). -/
def State.current (s : State) : Option Instr :=
  match s.phase with
  | .idle => none
  | .gCmd => some (commandInstr .get (s.slot.bind getCommand))
  | .gAck => some .getack
  | .gHdr => some .get
  | .gPay => some .get
  | .gDec => some .get
  | .pPrep => some .put
  | .pCmd => some (commandInstr .put (s.slot.bind putCommand))
  | .pAck1 => some .putack
  | .pHdr => some .put
  | .pPay => some .put
  | .pAck2 => some .putack
  | .cDec => some .decode
  | .cEnc => some .encode

/-- The sequencer's move (R142); while idle no step of it is enabled (R169). -/
def fetchSequencer (s : State) : Turn :=
  match s.current with
  | none => .settled (.next s)
  | some i => .run i s

/-- One move of the host or the reset input, or the sequencer's (R10, R11, R25, R30). -/
def fetchInput (i : Input) (s : State) : Turn :=
  match i with
  | .proceed => fetchSequencer s
  | .writeReg n v => if isStart n v then fetchStart s else .settled (hostWriteReg n v s)
  | .readReg n => .settled (hostReadReg n s)
  | .writeByte buf k b => .settled (hostWriteByte buf k b s)
  | .readByte buf k => .settled (hostReadByte buf k s)
  | .load buf bytes => .settled (hostLoad buf bytes s)
  | .reset => .settled (.next s.afterReset)

/-- The next move: the host's or the reset input's next one if there is one, which is thereby used up,
else the sequencer's (R10). -/
def fetch (s : State) : Turn :=
  match s.inputs with
  | [] => fetchSequencer s
  | i :: rest => fetchInput i { s with inputs := rest }

/-! ### Placing an instruction where the next step fetches it -/

/-- The smallest frame, 2 by 1 black pixels, as FULL (R66). -/
def smallFull : List Byte := [0, 0, 0, 0, 0, 0]

/-- The same frame packed (R65). -/
def smallPacked : List Byte := [16, 128, 16, 128]

/-- The request registers and input buffer of an operation, written as R194 asks before START where one
of them holds no value. Assumption log 6. -/
def State.withInputs (o : HostOp) (s : State) : State :=
  if s.inputsPresent o then s
  else
    match o with
    | .get => { s with slot := some 1 }
    | .put =>
      { s with
        slot := some (s.slot.getD 1), w := some 2, h := some 1
        flen := some 6, full := some (Memory.ofBytes smallFull) }
    | .decode => { s with plen := some 4, packed := some (Memory.ofBytes smallPacked) }
    | .encode => { s with flen := some 6, full := some (Memory.ofBytes smallFull) }

/-- The sequencer idle, as the host must find it before START (R25). -/
def State.idled (s : State) : State :=
  { s.clearHidden with
    phase := .idle
    status := if s.status = .busy then .idle else s.status
    err := if s.status = .busy then .none else s.err }

/-- A START of an operation about to happen: OP and the operands in place, the host's next move the
write of CTRL (R149, R194). -/
def State.atStart (o : HostOp) (code : OpCode) (s : State) : State :=
  { (s.idled.withInputs o) with op := some code, inputs := [.writeReg 0 1] }

/-- A GET of a slot in G_CMD, the transport about to take the command byte (R127). -/
def State.atGetCommand (slot : Byte) (s : State) : State :=
  { ({ s with op := some 0, slot := some slot } : State).begin .get with
    inputs := [], txAns := .txOk :: s.txAns }

/-- A byte arriving in answer to the get command, in G_ACK (R125). -/
def State.atGetAck (b : Byte) (s : State) : State :=
  { ({ s with op := some 0, slot := some (s.slot.getD 1) } : State).begin .get with
    phase := .gAck, inputs := [], rx := .rxByte b :: s.rx }

/-- A PUT of a 2 by 1 black frame to a slot, its P_PREP done (R129, R144). -/
def State.putPrepared (slot : Byte) (s : State) : State :=
  { ({ s with
        op := some 1, slot := some slot, w := some 2, h := some 1
        flen := some 6, full := some (Memory.ofBytes smallFull) } : State).begin .put with
    packed := some (Memory.ofBytes smallPacked), inputs := [] }

/-- The same in P_CMD, the transport about to take the command byte (R129). -/
def State.atPutCommand (slot : Byte) (s : State) : State :=
  { s.putPrepared slot with phase := .pCmd, txAns := .txOk :: s.txAns }

/-- The same in P_ACK1, a byte arriving in answer to the command (R126). -/
def State.atPutAck (b : Byte) (s : State) : State :=
  { s.putPrepared (s.slot.getD 1) with phase := .pAck1, rx := .rxByte b :: s.rx }

/-- The state whose next step fetches and runs an encoded instruction. A datapath function has no
encoding and is never placed. -/
def State.placed (i : Instr) (s : State) : State :=
  match i with
  | .get1 => s.atGetCommand 1
  | .get2 => s.atGetCommand 2
  | .get3 => s.atGetCommand 3
  | .get4 => s.atGetCommand 4
  | .put1 => s.atPutCommand 1
  | .put2 => s.atPutCommand 2
  | .put3 => s.atPutCommand 3
  | .put4 => s.atPutCommand 4
  | .getack => s.atGetAck getAckByte
  | .putack => s.atPutAck putAckByte
  | .get => s.atStart .get 0
  | .put => s.atStart .put 1
  | .decode => s.atStart .decode 2
  | .encode => s.atStart .encode 3
  | .ycbcr2rgb _ _ _ => s
  | .rgb2ycbcr _ _ _ => s
  | .avg2 _ _ => s

/-- The same for a word of the opcode table. A word that is no encoding arrives as the byte the core
checks in G_ACK, the one place where the core judges a byte from outside (R70). -/
def State.placedWord (nbits w : Nat) (s : State) : State :=
  match decodeTableWord nbits w with
  | some i => s.placed i
  | none => s.atGetAck (BitVec.ofNat 8 w)

end Sys2Proof.Machine
end

