-- ==== Sys2Proof/Machine/Step.lean ====
section
/-! DEFINITION. One step of the machine: fetch what is next, run it. -/

namespace Sys2Proof.Machine

/-- Run what was fetched. -/
def Turn.outcome : Turn → Result
  | .run i t => exec i t
  | .settled r => r

/-- One step: the next move of the host, the reset input or the sequencer (R10, R142). -/
def step (s : State) : Host.Outcome State Fault Refusal := (fetch s).outcome

/-- `s` with an opcode-table word where the next step fetches its instruction. -/
def State.withFetchWord (s : State) (nbits w : Nat) : State := s.placedWord nbits w

end Sys2Proof.Machine
end

