-- ==== Sys2Proof/Machine/Framestore.lean ====
section
/-! DEFINITION. The reference framestore (R44): an OPTIONAL environment for closed-loop claims, the
spec's own assumption about the device and no part of the core. No definition of the core uses this
file; a statement that uses it names it as a premise (R44, D17, U9). Assumption log 11. -/

namespace Sys2Proof.Machine

/-- What a slot of the reference framestore holds (R44). -/
inductive SlotCell where
  /-- Nothing has been stored. -/
  | empty
  /-- A put exchange was cut short: contents unspecified (R51, U7). -/
  | unspecified
  /-- The frame of the last put exchange that ran to its second 0xAC. -/
  | holds (w h : Dim) (payload : List Byte)
deriving DecidableEq, Repr

/-- Where the device stands in an exchange. -/
inductive Link where
  /-- At an exchange boundary. -/
  | ready
  /-- In a put exchange, taking the header. -/
  | header (slot : Byte) (got : List Byte)
  /-- In a put exchange, taking the payload. -/
  | payload (slot : Byte) (w h : Dim) (got : List Byte)
  /-- The payload is complete and the second 0xAC is on its way to the core. -/
  | storing (slot : Byte) (w h : Dim) (bytes : List Byte)
  /-- Out of step after a put exchange that was cut short or a byte that is no command, or asked for a
  slot that holds nothing: the device's further
  behaviour is unspecified (R44, R201), so it answers nothing of itself. -/
  | lost
deriving DecidableEq, Repr

/-- The reference framestore: four independent cells, the link, and how many bytes of TX it has seen
(R44). -/
structure Framestore where
  slot1 : SlotCell
  slot2 : SlotCell
  slot3 : SlotCell
  slot4 : SlotCell
  link : Link
  seen : Nat
deriving DecidableEq, Repr

/-- The cell of a slot; a number that is no slot has none (R42, R43). -/
def Framestore.cell (d : Framestore) (k : Byte) : SlotCell :=
  if k = 1 then d.slot1
  else if k = 2 then d.slot2
  else if k = 3 then d.slot3
  else if k = 4 then d.slot4
  else .unspecified

/-- Put a content into the cell of a slot. -/
def Framestore.setCell (d : Framestore) (k : Byte) (c : SlotCell) : Framestore :=
  if k = 1 then { d with slot1 := c }
  else if k = 2 then { d with slot2 := c }
  else if k = 3 then { d with slot3 := c }
  else if k = 4 then { d with slot4 := c }
  else d

/-- A command byte read by its fields: the operation from `fn`, the slot `sel - 1` (R61). -/
def commandOf (b : Byte) : Option (HostOp × Byte) :=
  match decodeCmd8 b with
  | none => none
  | some _ =>
    if cmdFn b = 1 then some (.get, (cmdSel b).setWidth 8 - 1)
    else some (.put, (cmdSel b).setWidth 8 - 1)

/-- The device's answer to a get of a cell: 0x10, the header, the payload; none unless it holds a
frame (R42, R44). -/
def SlotCell.reply : SlotCell → Option (List Byte)
  | .empty => none
  | .unspecified => none
  | .holds w h p => some (getAckByte :: (headerBytes w h ++ p))

/-- The device takes a command byte at an exchange boundary. From a put command on, the slot's contents
are unspecified until the exchange has run to its end (R44, R51). A get's whole reply is given at once
and leaves the device at an exchange boundary. DESIGN CHOICE, assumption log 11: so a get exchange that
the core then cuts short does not put the device out of step; it takes the next command as a command. -/
def Framestore.takeCommand (b : Byte) (d : Framestore) : Framestore × List Byte :=
  match commandOf b with
  | some (.get, k) =>
    match (d.cell k).reply with
    | some bs => (d, bs)
    | none => ({ d with link := .lost }, [])
  | some (.put, k) => ({ d.setCell k .unspecified with link := .header k [] }, [putAckByte])
  | some (.decode, _) => ({ d with link := .lost }, [])
  | some (.encode, _) => ({ d with link := .lost }, [])
  | none => ({ d with link := .lost }, [])

/-- The device takes one more byte of a put header; the fourth completes it (R64). -/
def Framestore.takeHeader (k : Byte) (got : List Byte) (d : Framestore) : Framestore × List Byte :=
  match got with
  | [x0, x1, x2, x3] => ({ d with link := .payload k (beDim x0 x1) (beDim x2 x3) [] }, [])
  | _ => ({ d with link := .header k got }, [])

/-- The device takes one byte from TX and answers with bytes on RX (R42, R44). -/
def Framestore.take (b : Byte) (d : Framestore) : Framestore × List Byte :=
  match d.link with
  | .ready => d.takeCommand b
  | .header k got => d.takeHeader k (got ++ [b])
  | .payload k w h got =>
    if got.length + 1 = packedLength w h then
      ({ d with link := .storing k w h (got ++ [b]) }, [putAckByte])
    else ({ d with link := .payload k w h (got ++ [b]) }, [])
  | .storing _ _ _ _ => ({ d with link := .lost }, [])
  | .lost => (d, [])

/-- The device takes a run of bytes in order. -/
def Framestore.takeAll : List Byte → Framestore → Framestore × List Byte
  | [], d => (d, [])
  | b :: bs, d =>
    let r := d.take b
    let rest := Framestore.takeAll bs r.1
    (rest.1, r.2 ++ rest.2)

/-- The end of an exchange as the core sees it: a put exchange that has run to its second 0xAC sets the
slot; one cut short leaves it unspecified and the device out of step (R44, R51, R201). -/
def Framestore.settle (s : State) (d : Framestore) : Framestore :=
  match d.link with
  | .ready => d
  | .lost => d
  | .header _ _ => if s.phase = .idle then { d with link := .lost } else d
  | .payload _ _ _ _ => if s.phase = .idle then { d with link := .lost } else d
  | .storing k w h p =>
    if s.phase = .idle then
      if s.status = .done then { d.setCell k (.holds w h p) with link := .ready }
      else { d with link := .lost }
    else d

/-- The reference environment's turn: it takes what the core has sent since, puts its answers on RX
behind what is already there, and answers TxOk to a byte the core offers. -/
def Framestore.serve (d : Framestore) (s : State) : Framestore × State :=
  let r := d.takeAll (s.tx.drop d.seen)
  ({ (r.1.settle s) with seen := s.tx.length },
   { s with
      rx := s.rx ++ r.2.map .rxByte
      txAns := if s.phase.offersTx && s.txAns == [] then [.txOk] else s.txAns })

/-- One step of the core closed with the reference framestore. -/
def closedStep (d : Framestore) (s : State) : Host.Outcome (Framestore × State) Fault Refusal :=
  match step s with
  | .next t => .next (d.serve t)
  | .fault r => .fault r
  | .refused r => .refused r

end Sys2Proof.Machine
end

