-- ==== Sys2Proof/Safety.lean ====
section
/-! DEFINITION. What holds of every state a run reaches: the invariant of the machine, in the words of
spec/10_state.md R17, R18, R21 to R29 and of the phase rules. -/

namespace Sys2Proof.Machine

/-- CNT, HDR and EXP hold no value (R28 (b), R30, R167). -/
def State.hiddenVoid (s : State) : Prop := s.cnt = none ∧ s.hdr = Hdr.void ∧ s.exp = none

/-- A GET is running: its SLOT is there, its outputs and PLEN hold no value (R29, R149). -/
def State.getOpen (s : State) : Prop :=
  s.slot.isSome = true ∧ s.w = none ∧ s.h = none ∧ s.flen = none ∧ s.full = none ∧ s.plen = none

/-- A PUT of a W by H frame with content `f` is running: its operands are there, PLEN holds no value,
and the frame fits the buffers (R29, R149, R199). -/
def State.putOpen (w h : Dim) (f : List Byte) (s : State) : Prop :=
  s.slot.isSome = true ∧ s.w = some w ∧ s.h = some h ∧ contentOf s.flen s.full = some f ∧
    s.plen = none ∧ pixels w h ≤ s.maxPix

/-- PACKED holds the whole payload of a W by H frame, both dimensions positive (R15, R20, R24). -/
def State.framed (w h : Dim) (p : List Byte) (s : State) : Prop :=
  zeroDim w h = false ∧ s.packed = some (Memory.ofBytes p) ∧ p.length = packedLength w h

/-- A GET's header has been accepted and `p` is the payload collected so far (R20, R22 to R24, R127). -/
def State.receiving (w h : Dim) (p : List Byte) (s : State) : Prop :=
  s.hdr.dims = some (w, h) ∧ zeroDim w h = false ∧ pixels w h ≤ s.maxPix ∧
    s.exp = some (BitVec.ofNat 34 (packedLength w h)) ∧ s.packed = some (Memory.ofBytes p) ∧
    s.cnt = some (BitVec.ofNat 34 p.length)

/-- A PUT has its header from START on (R23), and neither CNT nor EXP yet (R22, R24). -/
def State.headed (w h : Dim) (s : State) : Prop :=
  s.hdr = Hdr.ofDims w h ∧ s.cnt = none ∧ s.exp = none

/-- A PUT's header and expected length are set (R23, R24). -/
def State.sending (w h : Dim) (s : State) : Prop :=
  s.hdr = Hdr.ofDims w h ∧ s.exp = some (BitVec.ofNat 34 (packedLength w h))

/-- What each phase has established (R21 to R24, R29). -/
def State.phaseInv (s : State) : Prop :=
  match s.phase with
  | .idle => s.hiddenVoid
  | .gCmd => s.getOpen ∧ s.packed = none ∧ s.hiddenVoid
  | .gAck => s.getOpen ∧ s.packed = none ∧ s.hiddenVoid
  | .gHdr =>
    s.getOpen ∧ s.packed = none ∧ s.exp = none ∧
      ∃ c : Len, s.cnt = some c ∧ c.toNat < 4 ∧ ∀ i, i < c.toNat → (s.hdr.get i).isSome = true
  | .gPay => s.getOpen ∧ ∃ w h p, s.receiving w h p ∧ p.length < packedLength w h
  | .gDec => s.getOpen ∧ ∃ w h p, s.receiving w h p ∧ p.length = packedLength w h
  | .pPrep => ∃ w h f, s.putOpen w h f ∧ s.packed = none ∧ s.headed w h
  | .pCmd => ∃ w h f p, s.putOpen w h f ∧ s.framed w h p ∧ s.headed w h
  | .pAck1 => ∃ w h f p, s.putOpen w h f ∧ s.framed w h p ∧ s.headed w h
  | .pHdr =>
    ∃ w h f p, s.putOpen w h f ∧ s.framed w h p ∧ s.sending w h ∧
      ∃ c : Len, s.cnt = some c ∧ c.toNat < 4
  | .pPay =>
    ∃ w h f p, s.putOpen w h f ∧ s.framed w h p ∧ s.sending w h ∧
      ∃ c : Len, s.cnt = some c ∧ c.toNat < packedLength w h
  | .pAck2 =>
    ∃ w h f p, s.putOpen w h f ∧ s.framed w h p ∧ s.sending w h ∧
      s.cnt = some (BitVec.ofNat 34 (packedLength w h))
  | .cDec =>
    s.flen = none ∧ s.full = none ∧ s.hiddenVoid ∧
      ∃ n p, s.plen = some n ∧ contentOf s.plen s.packed = some p ∧ n.toNat ≤ 2 * s.maxPix
  | .cEnc =>
    s.plen = none ∧ s.packed = none ∧ s.hiddenVoid ∧
      ∃ n f, s.flen = some n ∧ contentOf s.flen s.full = some f ∧ n.toNat ≤ 3 * s.maxPix

/-- The invariant: STATUS is BUSY exactly while PHASE is not IDLE (R21); ERR is NONE exactly while
STATUS is not ERROR (R18, U11); both buffers are in canonical form; the capacity is at most what the
16-bit fields can say (R5); and what the phase has established. -/
structure State.Inv (s : State) : Prop where
  busy : s.status = .busy ↔ s.phase ≠ .idle
  err : s.err = .none ↔ s.status ≠ .error
  full : ∀ m, s.full = some m → Memory.wf m
  packed : ∀ m, s.packed = some m → Memory.wf m
  capacity : s.maxPix ≤ Config.defaultMaxPix
  phase : s.phaseInv

/-! ### What an operation leaves (R29) -/

/-- The "in" and "keep" registers and buffers of an operation, and OP, are the same in `t` (R28, R29). -/
def State.InputsKept (o : HostOp) (s t : State) : Prop :=
  t.op = s.op ∧ t.slot = s.slot ∧
    match o with
    | .get => True
    | .put => t.w = s.w ∧ t.h = s.h ∧ t.flen = s.flen ∧ t.full = s.full
    | .decode => t.w = s.w ∧ t.h = s.h ∧ t.plen = s.plen ∧ t.packed = s.packed
    | .encode => t.w = s.w ∧ t.h = s.h ∧ t.flen = s.flen ∧ t.full = s.full

/-- The "out" and "void" registers and buffers of an operation hold no value (R28, R29). -/
def State.OutputsVoid (o : HostOp) (t : State) : Prop :=
  match o with
  | .get =>
    t.w = none ∧ t.h = none ∧ t.flen = none ∧ t.full = none ∧ t.plen = none ∧ t.packed = none
  | .put => t.plen = none ∧ t.packed = none
  | .decode => t.flen = none ∧ t.full = none
  | .encode => t.plen = none ∧ t.packed = none

/-- What the host and the model's own ports hold, and the parameter, is the same in `t`. -/
def State.OutsideKept (s t : State) : Prop :=
  t.inputs = s.inputs ∧ t.rdata = s.rdata ∧ t.dpOut = s.dpOut ∧ t.freeCtr = s.freeCtr ∧
    t.maxPix = s.maxPix

/-- `t` is `s` after the abort of operation `o` with fault `c` (R167): ERR, STATUS and PHASE written,
every output and hidden register holding no value, every input untouched. The streams are the faulting
step's own matter (R168). -/
structure State.Aborted (o : HostOp) (c : ErrCode) (s t : State) : Prop where
  err : t.err = c
  status : t.status = .error
  phase : t.phase = .idle
  hidden : t.hiddenVoid
  outputs : t.OutputsVoid o
  inputs : State.InputsKept o s t
  outside : State.OutsideKept s t

end Sys2Proof.Machine
end

