-- ==== Sys2Proof/Certificates/Slice0/Obligations.lean ====
section
/-! DEFINITION. The statements about the HS450 CSC core, for the provers. A state `t` written as
`{ s with … }` says the frame: every field not named is as in `s`, every byte of both buffers among
them. -/

open Sys2Proof Sys2Proof.Machine

/-! ### Encodings (spec/30_encoding.md) -/

/-- Decode and encode agree, both ways: bytes decode to `i` with `rest` left over exactly when `i` has an
encoding (R68) and they are that encoding followed by `rest`. For GET, PUT, DECODE and ENCODE the spec
gives two bits of register OP; that they are laid out as a byte with the upper six bits 0, and that one
decoder serves OP, command and acknowledgement bytes, is the model's choice (log 8). -/
def Obligations.DecodeEncodeAgree : Prop :=
  ∀ (bs : List Byte) (i : Instr) (rest : List Byte),
    decode bs = .ok (i, rest) ↔ i.wf = true ∧ bs = encode i ++ rest

/-- The fourteen encodings of the opcode map, written out, and four bytes that are none (R68, R69). That
one decoder serves both kinds of byte is the model's reading (log 8). -/
def Obligations.OpcodeMapDecodes : Prop :=
  (decode [0x21] = .ok (.get1, []) ∧ decode [0x31] = .ok (.get2, []) ∧
    decode [0x41] = .ok (.get3, []) ∧ decode [0x51] = .ok (.get4, []) ∧
    decode [0x24] = .ok (.put1, []) ∧ decode [0x34] = .ok (.put2, []) ∧
    decode [0x44] = .ok (.put3, []) ∧ decode [0x54] = .ok (.put4, [])) ∧
  (decode [0x10] = .ok (.getack, []) ∧ decode [0xAC] = .ok (.putack, [])) ∧
  (decodeOpreq 0 = .get ∧ decodeOpreq 1 = .put ∧ decodeOpreq 2 = .decode ∧
    decodeOpreq 3 = .encode) ∧
  (decode [0x11] = .error (.unassigned 0x11) ∧ decode [0x61] = .error (.unassigned 0x61) ∧
    decode [0x22] = .error (.unassigned 0x22) ∧ decode [0x99] = .error (.unassigned 0x99))

/-- GETCMD and PUTCMD give `0x11 + slot*0x10` and `0x14 + slot*0x10`, with no wrap, for slots 1 to 4 and
nothing for any other (R43, R120, R121); reading a byte by its fields recovers exactly the operation
and slot it was made from (R61). -/
def Obligations.CommandBytesByFormula : Prop :=
  ∀ k c : Byte,
    (getCommand k = some c ↔ (1 ≤ k.toNat ∧ k.toNat ≤ 4) ∧ c.toNat = 0x11 + k.toNat * 0x10) ∧
    (putCommand k = some c ↔ (1 ≤ k.toNat ∧ k.toNat ≤ 4) ∧ c.toNat = 0x14 + k.toNat * 0x10) ∧
    (commandOf c = some (.get, k) ↔ getCommand k = some c) ∧
    (commandOf c = some (.put, k) ↔ putCommand k = some c)

/-- The header: four bytes `W[15:8], W[7:0], H[15:8], H[7:0]`, and parsing what was laid out gives W and
H back, in HDR and as bytes (R45, R64, R67, R128). -/
def Obligations.HeaderIsBigEndian : Prop :=
  ∀ w h : Dim,
    headerBytes w h =
      [w.extractLsb' 8 8, w.extractLsb' 0 8, h.extractLsb' 8 8, h.extractLsb' 0 8] ∧
    (Hdr.ofDims w h).dims = some (w, h) ∧
    (∀ i, (Hdr.ofDims w h).get i = (headerBytes w h)[i]?) ∧
    ∀ x0 x1 x2 x3 : Byte, headerBytes w h = [x0, x1, x2, x3] ↔
      w.toNat = x0.toNat * 256 + x1.toNat ∧ h.toNat = x2.toNat * 256 + x3.toNat

/-! ### ColorMatrix (spec/40_colormatrix.md) -/

/-- CD is SAT8: `clampDiv s` is the truncation of s/1000 clamped to 0..255, over the exact rationals, and
the three cases of R81 (R81, R84). -/
def Obligations.ClampDivIsSat8 : Prop :=
  ∀ s : Int,
    ((clampDiv s).toNat : Int) = ⌊max 0 (min 255 ((s : ℚ) / 1000))⌋ ∧
    ((s : ℚ) / 1000 < 0 → (clampDiv s).toNat = 0) ∧
    (255 ≤ (s : ℚ) / 1000 → (clampDiv s).toNat = 255) ∧
    (0 ≤ (s : ℚ) / 1000 → (s : ℚ) / 1000 < 255 → ((clampDiv s).toNat : Int) = ⌊(s : ℚ) / 1000⌋)

/-- YCBCR2RGB runs in every state and on all inputs: it returns the truncated, clamped product of M with
(y-16, cb-128, cr-128), over the exact rationals, and changes nothing of the core (R80, R82, R85).
The place of the returned bytes is the model's (log 5). -/
def Obligations.YcbcrToRgbReturnsMatrixProduct : Prop :=
  ∀ (y cb cr : Byte) (s : State), ∃ r g b : Byte,
    exec (.ycbcr2rgb y cb cr) s = .next { s with dpOut := [r, g, b] } ∧
    (r.toNat : Int) = ⌊max 0 (min 255
      ((1.164 : ℚ) * ((y.toNat : ℚ) - 16) + 1.793 * ((cr.toNat : ℚ) - 128)))⌋ ∧
    (g.toNat : Int) = ⌊max 0 (min 255
      ((1.164 : ℚ) * ((y.toNat : ℚ) - 16) - 0.213 * ((cb.toNat : ℚ) - 128)
        - 0.533 * ((cr.toNat : ℚ) - 128)))⌋ ∧
    (b.toNat : Int) = ⌊max 0 (min 255
      ((1.164 : ℚ) * ((y.toNat : ℚ) - 16) + 2.112 * ((cb.toNat : ℚ) - 128)))⌋

/-- RGB2YCBCR runs in every state and on all inputs: it returns the truncated, clamped
(16, 128, 128) + N · (r, g, b), over the exact rationals, and changes nothing of the core (R80, R83,
R85). The place of the returned bytes is the model's (log 5). -/
def Obligations.RgbToYcbcrReturnsMatrixProduct : Prop :=
  ∀ (r g b : Byte) (s : State), ∃ y cb cr : Byte,
    exec (.rgb2ycbcr r g b) s = .next { s with dpOut := [y, cb, cr] } ∧
    (y.toNat : Int) = ⌊max 0 (min 255
      ((16 : ℚ) + 0.183 * r.toNat + 0.614 * g.toNat + 0.062 * b.toNat))⌋ ∧
    (cb.toNat : Int) = ⌊max 0 (min 255
      ((128 : ℚ) - 0.101 * r.toNat - 0.339 * g.toNat + 0.439 * b.toNat))⌋ ∧
    (cr.toNat : Int) = ⌊max 0 (min 255
      ((128 : ℚ) + 0.439 * r.toNat - 0.399 * g.toNat - 0.040 * b.toNat))⌋

/-- The scaled sums lie in the ranges of R86's table, and the encode direction never clamps: its outputs
are the floors of the sums and satisfy 16 ≤ y ≤ 235, 15 ≤ cb ≤ 239, 16 ≤ cr ≤ 239 (R86). -/
def Obligations.ScaledSumsStayInRange : Prop :=
  ∀ a b c : Byte,
    (-248128 ≤ (rgbSums a b c).1 ∧ (rgbSums a b c).1 ≤ 505907) ∧
    (-113366 ≤ (rgbSums a b c).2.1 ∧ (rgbSums a b c).2.1 ≤ 373684) ∧
    (-288960 ≤ (rgbSums a b c).2.2 ∧ (rgbSums a b c).2.2 ≤ 546420) ∧
    (16000 ≤ (ycbcrSums a b c).1 ∧ (ycbcrSums a b c).1 ≤ 235045) ∧
    (15800 ≤ (ycbcrSums a b c).2.1 ∧ (ycbcrSums a b c).2.1 ≤ 239945) ∧
    (16055 ≤ (ycbcrSums a b c).2.2 ∧ (ycbcrSums a b c).2.2 ≤ 239945) ∧
    (((rgb2ycbcr a b c).1.toNat : Int) = (ycbcrSums a b c).1 / 1000 ∧
      ((rgb2ycbcr a b c).2.1.toNat : Int) = (ycbcrSums a b c).2.1 / 1000 ∧
      ((rgb2ycbcr a b c).2.2.toNat : Int) = (ycbcrSums a b c).2.2 / 1000) ∧
    (16 ≤ (rgb2ycbcr a b c).1.toNat ∧ (rgb2ycbcr a b c).1.toNat ≤ 235) ∧
    (15 ≤ (rgb2ycbcr a b c).2.1.toNat ∧ (rgb2ycbcr a b c).2.1.toNat ≤ 239) ∧
    (16 ≤ (rgb2ycbcr a b c).2.2.toNat ∧ (rgb2ycbcr a b c).2.2.toNat ≤ 239)

/-! ### PixelCodec (spec/41_pixelcodec.md) -/

/-- AVG2 runs in every state and on all inputs: it returns `(c1 + c2) div 2`, commutes, and changes
nothing of the core (R100). The place of the returned byte is the model's (log 5). -/
def Obligations.Avg2ReturnsTruncatedMean : Prop :=
  ∀ (c1 c2 : Byte) (s : State), ∃ c : Byte,
    exec (.avg2 c1 c2) s = .next { s with dpOut := [c] } ∧
    c.toNat = (c1.toNat + c2.toNat) / 2 ∧
    exec (.avg2 c2 c1) s = exec (.avg2 c1 c2) s

/-- DECODEBUF fails on a length that is not a multiple of 4; else its output has n/4*6 bytes, and the six
bytes of group g are YCBCR2RGB of (y1, cb, cr) and of (y2, cb, cr), group g's own bytes: the chroma is
replicated (R102, R105). -/
def Obligations.DecodeBufConvertsGroups : Prop :=
  ∀ p : List Byte,
    (p.length % 4 ≠ 0 → decodeBuf p = none) ∧
    (p.length % 4 = 0 → ∃ f, decodeBuf p = some f ∧ f.length = p.length / 4 * 6 ∧
      ∀ g, g < p.length / 4 → ∃ y1 cb y2 cr : Byte,
        (p[4 * g]? = some y1 ∧ p[4 * g + 1]? = some cb ∧ p[4 * g + 2]? = some y2 ∧
          p[4 * g + 3]? = some cr) ∧
        (f[6 * g]? = some (ycbcr2rgb y1 cb cr).1 ∧
          f[6 * g + 1]? = some (ycbcr2rgb y1 cb cr).2.1 ∧
          f[6 * g + 2]? = some (ycbcr2rgb y1 cb cr).2.2 ∧
          f[6 * g + 3]? = some (ycbcr2rgb y2 cb cr).1 ∧
          f[6 * g + 4]? = some (ycbcr2rgb y2 cb cr).2.1 ∧
          f[6 * g + 5]? = some (ycbcr2rgb y2 cb cr).2.2))

/-- ENCODEBUF fails on a length that is not a multiple of 6; else its output has n/6*4 bytes, and group g
is (y1, AVG2(cb1, cb2), y2, AVG2(cr1, cr2)) of group g's own two pixels (R103, R106). -/
def Obligations.EncodeBufConvertsGroups : Prop :=
  ∀ f : List Byte,
    (f.length % 6 ≠ 0 → encodeBuf f = none) ∧
    (f.length % 6 = 0 → ∃ p, encodeBuf f = some p ∧ p.length = f.length / 6 * 4 ∧
      ∀ g, g < f.length / 6 → ∃ r1 g1 b1 r2 g2 b2 : Byte,
        (f[6 * g]? = some r1 ∧ f[6 * g + 1]? = some g1 ∧ f[6 * g + 2]? = some b1 ∧
          f[6 * g + 3]? = some r2 ∧ f[6 * g + 4]? = some g2 ∧ f[6 * g + 5]? = some b2) ∧
        (p[4 * g]? = some (rgb2ycbcr r1 g1 b1).1 ∧
          p[4 * g + 1]? = some (avg2 (rgb2ycbcr r1 g1 b1).2.1 (rgb2ycbcr r2 g2 b2).2.1) ∧
          p[4 * g + 2]? = some (rgb2ycbcr r2 g2 b2).1 ∧
          p[4 * g + 3]? = some (avg2 (rgb2ycbcr r1 g1 b1).2.2 (rgb2ycbcr r2 g2 b2).2.2)))

/-- The length relations: whole groups round-trip to their own length, and a W by H packed frame decodes
to W*H*3 bytes when W*H is even and is a FormatError when it is odd (R104). -/
def Obligations.CodecLengthsAgree : Prop :=
  (∀ p f, decodeBuf p = some f → f.length = p.length * 3 / 2 ∧
    ∃ q, encodeBuf f = some q ∧ q.length = p.length) ∧
  (∀ f p, encodeBuf f = some p → p.length = f.length * 2 / 3 ∧
    ∃ g, decodeBuf p = some g ∧ g.length = f.length) ∧
  (∀ (w h : Dim) (p : List Byte), p.length = w.toNat * h.toNat * 2 →
    (w.toNat * h.toNat % 2 = 0 → ∃ f, decodeBuf p = some f ∧ f.length = w.toNat * h.toNat * 3) ∧
    (w.toNat * h.toNat % 2 = 1 → decodeBuf p = none))

/-- Pairs are independent: the output of a run of whole groups followed by more bytes is the output of
the run followed by the output of the rest, in both directions (R101). -/
def Obligations.PairsAreIndependent : Prop :=
  (∀ p q f, decodeBuf p = some f → decodeBuf (p ++ q) = (decodeBuf q).map (f ++ ·)) ∧
  (∀ f g p, encodeBuf f = some p → encodeBuf (f ++ g) = (encodeBuf g).map (p ++ ·))

/-- A frame of any number of pixel pairs of one constant grey v decodes back, after an encode, to within
4 of v on every channel, never above v (R107). -/
def Obligations.GreyRoundTripWithinFour : Prop :=
  ∀ (v : Byte) (n : Nat), ∃ p f,
    encodeBuf (List.replicate (6 * n) v) = some p ∧ decodeBuf p = some f ∧
    f.length = 6 * n ∧ ∀ x ∈ f, x.toNat ≤ v.toNat ∧ v.toNat ≤ x.toNat + 4

/-! ### Buffers (spec/20_memory.md, R19, R20, R41) -/

/-- A buffer in canonical form: one write changes the byte at its index alone and keeps the form; the
valid content under a length is exactly the bytes below it, and there is none if one of them holds no
value; a whole-buffer assignment holds byte j of the sequence at index j (R7, R19, R27, R41). The form
itself, and that a byte nothing has written holds no value, is the model's reading (log 17). -/
def Obligations.BuffersHoldWhatWasWritten : Prop :=
  ∀ m : Memory, Memory.wf m →
    (∀ k v, Memory.wf (Memory.write m k v) ∧
      ∀ j, Memory.read (Memory.write m k v) j = if j = k then some v else Memory.read m j) ∧
    (∀ n bs, Memory.firstBytes m n = some bs ↔
      bs.length = n ∧ ∀ j, j < n → Memory.read m j = bs[j]?) ∧
    (∀ bs, Memory.wf (Memory.ofBytes bs) ∧ (∀ j, Memory.read (Memory.ofBytes bs) j = bs[j]?) ∧
      ((∀ j, Memory.read m j = bs[j]?) → m = Memory.ofBytes bs))

/-! ### Command bytes and acknowledgements (spec/42_slotprotocol.md) -/

/-- In G_CMD, with a transport that takes the byte, GET1 to GET4 put 0x21, 0x31, 0x41, 0x51 on TX and go
to G_ACK; nothing else changes (R61, R122, R127). -/
def Obligations.GetCommandsSendTheirByte : Prop :=
  ∀ (s : State) (as : List TxAnswer), s.phase = .gCmd → s.txAns = .txOk :: as →
    exec .get1 s = .next { s with tx := s.tx ++ [0x21], txAns := as, phase := .gAck } ∧
    exec .get2 s = .next { s with tx := s.tx ++ [0x31], txAns := as, phase := .gAck } ∧
    exec .get3 s = .next { s with tx := s.tx ++ [0x41], txAns := as, phase := .gAck } ∧
    exec .get4 s = .next { s with tx := s.tx ++ [0x51], txAns := as, phase := .gAck }

/-- In P_CMD, with a transport that takes the byte, PUT1 to PUT4 put 0x24, 0x34, 0x44, 0x54 on TX and go
to P_ACK1; nothing else changes (R61, R122, R129). -/
def Obligations.PutCommandsSendTheirByte : Prop :=
  ∀ (s : State) (as : List TxAnswer), s.phase = .pCmd → s.txAns = .txOk :: as →
    exec .put1 s = .next { s with tx := s.tx ++ [0x24], txAns := as, phase := .pAck1 } ∧
    exec .put2 s = .next { s with tx := s.tx ++ [0x34], txAns := as, phase := .pAck1 } ∧
    exec .put3 s = .next { s with tx := s.tx ++ [0x44], txAns := as, phase := .pAck1 } ∧
    exec .put4 s = .next { s with tx := s.tx ++ [0x54], txAns := as, phase := .pAck1 }

/-- The GETACK check: 0x10 goes to G_HDR with CNT 0 and nothing else changes; any other byte is consumed
and the operation aborts with ProtocolViolation; nothing is sent (R125, R70, R22). -/
def Obligations.GetackChecksTheByte : Prop :=
  ∀ (s : State) (b : Byte) (as : List RxAnswer), s.phase = .gAck → s.rx = .rxByte b :: as →
    (b = 0x10 → exec .getack s = .next { s with rx := as, phase := .gHdr, cnt := some 0 }) ∧
    (b ≠ 0x10 → ∃ t, exec .getack s = .next t ∧ t.rx = as ∧ t.tx = s.tx ∧ t.txAns = s.txAns ∧
      State.Aborted .get .protocolViolation s t)

/-- The PUTACK check in P_ACK1: 0xAC goes to P_HDR with CNT 0, HDR the header of W and H and EXP its
payload length, nothing else changing; any other byte is consumed and the operation aborts with
ProtocolViolation, no header byte sent (R126, R22 to R24; when HDR and EXP are written is the model's
reading, log 7; that the wrong byte is used up is too, log 16). -/
def Obligations.FirstPutackChecksTheByte : Prop :=
  ∀ (s : State) (b : Byte) (as : List RxAnswer) (w h : Dim),
    s.phase = .pAck1 → s.rx = .rxByte b :: as → s.w = some w → s.h = some h →
    (b = 0xAC → ∃ e : Len, e.toNat = w.toNat * h.toNat * 2 ∧
      exec .putack s = .next { s with
        rx := as, phase := .pHdr, cnt := some 0, exp := some e
        hdr := ⟨some (w.extractLsb' 8 8), some (w.extractLsb' 0 8),
                some (h.extractLsb' 8 8), some (h.extractLsb' 0 8)⟩ }) ∧
    (b ≠ 0xAC → ∃ t, exec .putack s = .next t ∧ t.rx = as ∧ t.tx = s.tx ∧ t.txAns = s.txAns ∧
      State.Aborted .put .protocolViolation s t)

/-- The PUTACK check in P_ACK2: 0xAC ends the PUT with DONE, PACKED, PLEN and the hidden registers
holding no value and nothing else changing; any other byte is consumed and the operation aborts with
ProtocolViolation (R126, R144, R29). That the hidden registers hold no value from DONE on is the model's
reading of R28 (b) (log 7), and that the wrong byte is used up is too (log 16). -/
def Obligations.SecondPutackCompletesThePut : Prop :=
  ∀ (s : State) (b : Byte) (as : List RxAnswer), s.phase = .pAck2 → s.rx = .rxByte b :: as →
    (b = 0xAC → exec .putack s = .next { s with
      rx := as, phase := .idle, status := .done, packed := none, plen := none
      cnt := none, exp := none, hdr := ⟨none, none, none, none⟩ }) ∧
    (b ≠ 0xAC → ∃ t, exec .putack s = .next t ∧ t.rx = as ∧ t.tx = s.tx ∧ t.txAns = s.txAns ∧
      State.Aborted .put .protocolViolation s t)

/-- A command or acknowledgement instruction is the step of its own phases and of no other: elsewhere it
is refused by name (R21, R69). The refusal is the model's word for "no such step" (log 13). -/
def Obligations.WireInstrsKeepTheirPhase : Prop :=
  ∀ s : State,
    (s.phase ≠ .gCmd → ∀ i ∈ [Instr.get1, .get2, .get3, .get4],
      exec i s = .refused .outOfSequence) ∧
    (s.phase ≠ .pCmd → ∀ i ∈ [Instr.put1, .put2, .put3, .put4],
      exec i s = .refused .outOfSequence) ∧
    (s.phase ≠ .gAck → exec .getack s = .refused .outOfSequence) ∧
    (s.phase ≠ .pAck1 → s.phase ≠ .pAck2 → exec .putack s = .refused .outOfSequence)

/-- InvalidSlot: in G_CMD and P_CMD a SLOT outside 1 to 4 aborts the operation with InvalidSlot, before
any byte is sent or requested: the streams and the answers to come are untouched (R120, R121, R161). -/
def Obligations.InvalidSlotRaisedBeforeAnyByte : Prop :=
  ∀ (s : State) (k : Byte), s.inputs = [] → s.slot = some k → (k.toNat = 0 ∨ 4 < k.toNat) →
    (s.phase = .gCmd → ∃ t, step s = .next t ∧ exec .get s = .next t ∧ t.tx = s.tx ∧
      t.txAns = s.txAns ∧ t.rx = s.rx ∧ State.Aborted .get .invalidSlot s t) ∧
    (s.phase = .pCmd → ∃ t, step s = .next t ∧ exec .put s = .next t ∧ t.tx = s.tx ∧
      t.txAns = s.txAns ∧ t.rx = s.rx ∧ State.Aborted .put .invalidSlot s t)

/-- A failed send, in every phase that offers a byte: TxTimeout aborts with TransportTimeout and TxError
with TransportError; what was sent before stays (R123, R164, R165). That the byte is not on TX and that
the failed answer is used up is the model's reading of R122 and R133 (log 16). -/
def Obligations.FailedSendAborts : Prop :=
  ∀ (s : State) (o : HostOp) (as : List TxAnswer), s.Inv → s.inputs = [] →
    s.phase.op = some o → s.phase.offersTx = true →
    (∀ k, s.slot = some k → 1 ≤ k.toNat ∧ k.toNat ≤ 4) →
    (s.txAns = .txTimeout :: as → ∃ t, step s = .next t ∧ t.tx = s.tx ∧ t.txAns = as ∧
      t.rx = s.rx ∧ State.Aborted o .transportTimeout s t) ∧
    (s.txAns = .txError :: as → ∃ t, step s = .next t ∧ t.tx = s.tx ∧ t.txAns = as ∧
      t.rx = s.rx ∧ State.Aborted o .transportError s t)

/-- A failed receive, in every phase that requests a byte: RxEos aborts with ProtocolViolation, RxTimeout
with TransportTimeout, RxError with TransportError (R124, R162, R164, R165). That the failure uses up
exactly one answer is the model's reading of R122 (log 16). -/
def Obligations.FailedReceiveAborts : Prop :=
  ∀ (s : State) (o : HostOp) (a : RxAnswer) (c : ErrCode) (as : List RxAnswer), s.Inv →
    s.inputs = [] → s.phase.op = some o → s.phase.requestsRx = true → s.rx = a :: as →
    (a = .rxEos ∧ c = .protocolViolation ∨ a = .rxTimeout ∧ c = .transportTimeout ∨
      a = .rxError ∧ c = .transportError) →
    ∃ t, step s = .next t ∧ t.rx = as ∧ t.tx = s.tx ∧ t.txAns = s.txAns ∧ State.Aborted o c s t

/-- A silent environment hangs the core: while the transport gives no answer to the `tx` or `rx` of the
phase, a step changes nothing (R122, R200). That the waiting is a step of its own is the model's choice
(log 14). -/
def Obligations.SilentTransportHoldsTheCore : Prop :=
  ∀ s : State, s.Inv → s.inputs = [] →
    (s.phase.offersTx = true → (∀ k, s.slot = some k → 1 ≤ k.toNat ∧ k.toNat ≤ 4) →
      s.txAns = [] → step s = .next s) ∧
    (s.phase.requestsRx = true → s.rx = [] → step s = .next s)

/-! ### The exchanges, byte by byte -/

/-- A header byte of a GET: before the fourth it is stored at HDR[CNT] and CNT moves on, nothing else
changing; the fourth completes the header, W and H its big-endian numbers. A zero dimension aborts with
FormatError; more than MAXPIX pixels stop the model by name; else G_PAY begins with CNT 0, EXP = W*H*2
and an empty payload (R22 to R24, R127, R128, R199). -/
def Obligations.GetReceivesItsHeader : Prop :=
  ∀ (s : State) (c : Len) (b : Byte) (as : List RxAnswer),
    s.phase = .gHdr → s.cnt = some c → s.rx = .rxByte b :: as →
    (c.toNat < 3 → ∃ d : Hdr,
      exec .get s = .next { s with rx := as, hdr := d, cnt := some (c + 1) } ∧
      ∀ i, d.get i = if i = c.toNat then some b else s.hdr.get i) ∧
    (∀ x0 x1 x2 : Byte, c.toNat = 3 → s.hdr.b0 = some x0 → s.hdr.b1 = some x1 →
      s.hdr.b2 = some x2 → ∀ w h : Dim, w.toNat = x0.toNat * 256 + x1.toNat →
      h.toNat = x2.toNat * 256 + b.toNat →
      ((w.toNat = 0 ∨ h.toNat = 0) → ∃ t, exec .get s = .next t ∧ t.rx = as ∧ t.tx = s.tx ∧
        t.txAns = s.txAns ∧ State.Aborted .get .formatError s t) ∧
      (0 < w.toNat → 0 < h.toNat → s.maxPix < w.toNat * h.toNat →
        exec .get s = .refused .overCapacity) ∧
      (0 < w.toNat → 0 < h.toNat → w.toNat * h.toNat ≤ s.maxPix → ∃ e : Len,
        e.toNat = w.toNat * h.toNat * 2 ∧
        exec .get s = .next { s with
          rx := as, hdr := ⟨some x0, some x1, some x2, some b⟩, phase := .gPay
          cnt := some 0, exp := some e, packed := some [] }))

/-- A payload byte of a GET goes to index CNT of PACKED, every other byte of PACKED staying, CNT moves on,
and G_DEC follows exactly when CNT has reached EXP; nothing else changes (R20, R22, R127, R130). -/
def Obligations.GetReceivesItsPayload : Prop :=
  ∀ (s : State) (c e : Len) (m : Memory) (b : Byte) (as : List RxAnswer),
    s.phase = .gPay → s.cnt = some c → s.exp = some e → s.packed = some m →
    c.toNat < e.toNat → s.rx = .rxByte b :: as →
    ∃ m' : Memory,
      exec .get s = .next { s with
        rx := as, packed := some m', cnt := some (c + 1)
        phase := if c.toNat + 1 = e.toNat then .gDec else .gPay } ∧
      ∀ j, Memory.read m' j = if j = c.toNat then some b else Memory.read m j

/-- G_DEC, with a payload of W*H*2 bytes: when W*H is even the GET ends with DONE, W, H and FLEN = W*H*3
written, FULL holding the decoded frame byte for byte, PACKED, PLEN and the hidden registers holding no
value, and nothing else changed; when W*H is odd it aborts with FormatError (R29, R143). That the hidden
registers hold no value from DONE on is the model's reading of R28 (b) (log 7). -/
def Obligations.GetDecodesItsPayload : Prop :=
  ∀ (s : State) (w h : Dim) (p : List Byte),
    s.phase = .gDec → s.hdr.dims = some (w, h) → contentOf s.cnt s.packed = some p →
    p.length = w.toNat * h.toNat * 2 →
    (w.toNat * h.toNat % 2 = 0 → ∃ f m n, decodeBuf p = some f ∧
      (∀ j, Memory.read m j = f[j]?) ∧ n.toNat = w.toNat * h.toNat * 3 ∧
      exec .get s = .next { s with
        w := some w, h := some h, full := some m, flen := some n, packed := none, plen := none
        cnt := none, exp := none, hdr := ⟨none, none, none, none⟩
        status := .done, phase := .idle }) ∧
    (w.toNat * h.toNat % 2 = 1 → ∃ t, exec .get s = .next t ∧ t.rx = s.rx ∧ t.tx = s.tx ∧
      t.txAns = s.txAns ∧ State.Aborted .get .formatError s t)

/-- P_PREP: a zero dimension, a length other than W*H*3, or an odd W*H aborts with FormatError, whatever
SLOT holds and with nothing sent; else PACKED holds the encoded frame byte for byte and P_CMD follows,
nothing else changing (R144, R163, R166). -/
def Obligations.PutPreparesItsFrame : Prop :=
  ∀ (s : State) (w h : Dim) (n : Len) (f : List Byte),
    s.phase = .pPrep → s.w = some w → s.h = some h → s.flen = some n →
    contentOf s.flen s.full = some f →
    ((w.toNat = 0 ∨ h.toNat = 0 ∨ n.toNat ≠ w.toNat * h.toNat * 3 ∨
        w.toNat * h.toNat % 2 = 1) →
      ∃ t, exec .put s = .next t ∧ t.tx = s.tx ∧ t.txAns = s.txAns ∧ t.rx = s.rx ∧
        State.Aborted .put .formatError s t) ∧
    (0 < w.toNat → 0 < h.toNat → n.toNat = w.toNat * h.toNat * 3 → w.toNat * h.toNat % 2 = 0 →
      ∃ p m, encodeBuf f = some p ∧ p.length = w.toNat * h.toNat * 2 ∧
        (∀ j, Memory.read m j = p[j]?) ∧
        exec .put s = .next { s with packed := some m, phase := .pCmd })

/-- The header and payload bytes of a PUT: P_HDR sends HDR[CNT] and goes to P_PAY with CNT 0 after the
fourth; P_PAY sends byte CNT of PACKED and goes to P_ACK2 exactly when CNT has reached EXP; nothing else
changes (R22, R129). -/
def Obligations.PutSendsItsFrame : Prop :=
  ∀ (s : State) (c : Len) (as : List TxAnswer), s.cnt = some c → s.txAns = .txOk :: as →
    (∀ b, s.phase = .pHdr → c.toNat < 4 → s.hdr.get c.toNat = some b →
      exec .put s = .next { s with
        tx := s.tx ++ [b], txAns := as
        cnt := if c.toNat = 3 then some 0 else some (c + 1)
        phase := if c.toNat = 3 then .pPay else .pHdr }) ∧
    (∀ b e m, s.phase = .pPay → s.exp = some e → s.packed = some m → c.toNat < e.toNat →
      Memory.read m c.toNat = some b →
      exec .put s = .next { s with
        tx := s.tx ++ [b], txAns := as, cnt := some (c + 1)
        phase := if c.toNat + 1 = e.toNat then .pAck2 else .pPay })

/-! ### The host operations (spec/43_frametransfer.md) -/

/-- DECODE's compute phase: a PLEN that is a multiple of 4 ends DONE with FULL holding DECODEBUF of PACKED
byte for byte and FLEN = PLEN/4*6, the hidden registers holding no value and nothing else changed; any
other PLEN aborts with FormatError; the transport is not touched (R145). That the hidden registers hold no
value from DONE on is the model's reading of R28 (b) (log 7); the bound on PLEN is the largest capacity
START lets through, which is the model's reading too (log 9). -/
def Obligations.DecodeConvertsPacked : Prop :=
  ∀ (s : State) (n : Len) (p : List Byte),
    s.phase = .cDec → s.plen = some n → contentOf s.plen s.packed = some p →
    n.toNat ≤ 2 * (65535 * 65535) →
    (n.toNat % 4 = 0 → ∃ f m k, decodeBuf p = some f ∧ (∀ j, Memory.read m j = f[j]?) ∧
      k.toNat = n.toNat / 4 * 6 ∧
      exec .decode s = .next { s with
        full := some m, flen := some k, cnt := none, exp := none
        hdr := ⟨none, none, none, none⟩, status := .done, phase := .idle }) ∧
    (n.toNat % 4 ≠ 0 → ∃ t, exec .decode s = .next t ∧ t.tx = s.tx ∧ t.txAns = s.txAns ∧
      t.rx = s.rx ∧ State.Aborted .decode .formatError s t)

/-- ENCODE's compute phase: an FLEN that is a multiple of 6 ends DONE with PACKED holding ENCODEBUF of
FULL byte for byte and PLEN = FLEN/6*4, the hidden registers holding no value and nothing else changed;
any other FLEN aborts with FormatError; the transport is not touched (R146). That the hidden registers
hold no value from DONE on is the model's reading of R28 (b) (log 7). -/
def Obligations.EncodeConvertsFull : Prop :=
  ∀ (s : State) (n : Len) (f : List Byte),
    s.phase = .cEnc → s.flen = some n → contentOf s.flen s.full = some f →
    (n.toNat % 6 = 0 → ∃ p m k, encodeBuf f = some p ∧ (∀ j, Memory.read m j = p[j]?) ∧
      k.toNat = n.toNat / 6 * 4 ∧
      exec .encode s = .next { s with
        packed := some m, plen := some k, cnt := none, exp := none
        hdr := ⟨none, none, none, none⟩, status := .done, phase := .idle }) ∧
    (n.toNat % 6 ≠ 0 → ∃ t, exec .encode s = .next t ∧ t.tx = s.tx ∧ t.txAns = s.txAns ∧
      t.rx = s.rx ∧ State.Aborted .encode .formatError s t)

/-- START of each operation, its inputs present and within MAXPIX: ERR to NONE, STATUS to BUSY, PHASE to
the first phase, every "out" and "void" register and buffer holding no value, HDR of a PUT the header of
W and H and every other hidden register holding no value; nothing else changes. Leaving ERROR is the same
step (R149, R169, R23, R29). That the other hidden registers hold no value is the model's reading of
R28 (b) (log 7), and so is what is within MAXPIX: W*H for PUT, PLEN to 2*MAXPIX, FLEN to 3*MAXPIX
(log 9). -/
def Obligations.StartBeginsTheOperation : Prop :=
  ∀ s : State, s.phase = .idle → s.status ≠ .busy →
    (∀ k, s.slot = some k →
      exec .get s = .next { s with
        w := none, h := none, flen := none, full := none, plen := none, packed := none
        cnt := none, exp := none, hdr := ⟨none, none, none, none⟩
        err := .none, status := .busy, phase := .gCmd }) ∧
    (∀ k w h f, s.slot = some k → s.w = some w → s.h = some h →
      contentOf s.flen s.full = some f → w.toNat * h.toNat ≤ s.maxPix →
      exec .put s = .next { s with
        plen := none, packed := none, cnt := none, exp := none
        hdr := ⟨some (w.extractLsb' 8 8), some (w.extractLsb' 0 8),
                some (h.extractLsb' 8 8), some (h.extractLsb' 0 8)⟩
        err := .none, status := .busy, phase := .pPrep }) ∧
    (∀ n p, s.plen = some n → contentOf s.plen s.packed = some p → n.toNat ≤ 2 * s.maxPix →
      exec .decode s = .next { s with
        flen := none, full := none, cnt := none, exp := none, hdr := ⟨none, none, none, none⟩
        err := .none, status := .busy, phase := .cDec }) ∧
    (∀ n f, s.flen = some n → contentOf s.flen s.full = some f → n.toNat ≤ 3 * s.maxPix →
      exec .encode s = .next { s with
        plen := none, packed := none, cnt := none, exp := none, hdr := ⟨none, none, none, none⟩
        err := .none, status := .busy, phase := .cEnc })

/-- START is refused, each case by name: while BUSY, while OP holds no value, while an "in" register or
buffer of the operation holds no value, and when the input exceeds MAXPIX (R195, R196, R199). What exceeds
MAXPIX is the model's reading: W*H alone for PUT, PLEN above 2*MAXPIX, FLEN above 3*MAXPIX (log 9); an
input buffer holds no value when a byte below its length has none (log 17). -/
def Obligations.StartIsRefused : Prop :=
  ∀ (s : State) (v : Len) (rest : List Input), s.inputs = .writeReg 0 v :: rest →
    v.getLsbD 0 = true →
    (s.status = .busy → step s = .refused .hostWhileBusy) ∧
    (s.status ≠ .busy → s.op = none → step s = .refused .absentInput) ∧
    (s.status ≠ .busy → s.phase = .idle →
      (s.op = some 0 → s.slot = none → step s = .refused .absentInput) ∧
      (s.op = some 1 →
        (s.slot = none ∨ s.w = none ∨ s.h = none ∨ contentOf s.flen s.full = none) →
        step s = .refused .absentInput) ∧
      (s.op = some 2 → contentOf s.plen s.packed = none → step s = .refused .absentInput) ∧
      (s.op = some 3 → contentOf s.flen s.full = none → step s = .refused .absentInput) ∧
      (∀ k w h f, s.op = some 1 → s.slot = some k → s.w = some w → s.h = some h →
        contentOf s.flen s.full = some f → s.maxPix < w.toNat * h.toNat →
        step s = .refused .overCapacity) ∧
      (∀ n p, s.op = some 2 → s.plen = some n → contentOf s.plen s.packed = some p →
        2 * s.maxPix < n.toNat → step s = .refused .overCapacity) ∧
      (∀ n f, s.op = some 3 → s.flen = some n → contentOf s.flen s.full = some f →
        3 * s.maxPix < n.toNat → step s = .refused .overCapacity))

/-- A step runs the decoded instruction: at START the operation that OP's byte decodes to, at the state
with the host's move used up; in G_CMD and P_CMD the command that SLOT's byte decodes to; in the
acknowledgement phases the acknowledgement the phase expects; in every other phase the running
operation (R21, R120, R121, R149). That one step is one move, and which instruction names it, is the
model's reading (log 2, 3); OP as a byte is its choice (log 8). -/
def Obligations.StepRunsTheDecodedInstr : Prop :=
  ∀ s : State,
    (∀ v rest o i, s.inputs = .writeReg 0 v :: rest → v.getLsbD 0 = true → s.status ≠ .busy →
      s.op = some o → decode [o.setWidth 8] = .ok (i, []) →
      step s = exec i { s with inputs := rest }) ∧
    (s.inputs = [] →
      (∀ k c i, s.phase = .gCmd → s.slot = some k → getCommand k = some c →
        decode [c] = .ok (i, []) → step s = exec i s ∧ exec i s = exec .get s) ∧
      (∀ k c i, s.phase = .pCmd → s.slot = some k → putCommand k = some c →
        decode [c] = .ok (i, []) → step s = exec i s ∧ exec i s = exec .put s) ∧
      (s.phase = .gAck → step s = exec .getack s ∧ exec .getack s = exec .get s) ∧
      (s.phase = .pAck1 ∨ s.phase = .pAck2 →
        step s = exec .putack s ∧ exec .putack s = exec .put s) ∧
      (s.phase = .gHdr ∨ s.phase = .gPay ∨ s.phase = .gDec → step s = exec .get s) ∧
      (s.phase = .pPrep ∨ s.phase = .pHdr ∨ s.phase = .pPay → step s = exec .put s) ∧
      (s.phase = .cDec → step s = exec .decode s) ∧
      (s.phase = .cEnc → step s = exec .encode s) ∧
      (s.phase = .idle → step s = .next s))

/-! ### The host port (spec/10_state.md) -/

/-- A host write to a register while the core is not BUSY writes that register alone; CTRL with bit 0
clear, STATUS and ERR take no write (R11, R25). That a narrow register takes the low bits of the port is
the model's choice (log 10). -/
def Obligations.HostWritesOneRegister : Prop :=
  ∀ (s : State) (v : Len) (rest : List Input), s.status ≠ .busy →
    (s.inputs = .writeReg 1 v :: rest →
      step s = .next { s with inputs := rest, op := some (v.extractLsb' 0 2) }) ∧
    (s.inputs = .writeReg 2 v :: rest →
      step s = .next { s with inputs := rest, slot := some (v.extractLsb' 0 8) }) ∧
    (s.inputs = .writeReg 3 v :: rest →
      step s = .next { s with inputs := rest, w := some (v.extractLsb' 0 16) }) ∧
    (s.inputs = .writeReg 4 v :: rest →
      step s = .next { s with inputs := rest, h := some (v.extractLsb' 0 16) }) ∧
    (s.inputs = .writeReg 5 v :: rest →
      step s = .next { s with inputs := rest, flen := some v }) ∧
    (s.inputs = .writeReg 6 v :: rest →
      step s = .next { s with inputs := rest, plen := some v }) ∧
    (s.inputs = .writeReg 7 v :: rest ∨ s.inputs = .writeReg 8 v :: rest →
      step s = .next { s with inputs := rest }) ∧
    (s.inputs = .writeReg 0 v :: rest → v.getLsbD 0 = false →
      step s = .next { s with inputs := rest })

/-- A host read, at any time and also while BUSY, returns the register's value, CTRL reading 0 and STATUS
and ERR reading their codes, and changes nothing of the core; a register that holds no value returns the
free value, cut to its width, of the counter, which moves on (R11, R25, R27, R51, U6). The read-data
port is the model's (log 4). -/
def Obligations.HostReadsAtAnyTime : Prop :=
  ∀ (s : State) (rest : List Input) (n : RegNumber), s.inputs = .readReg n :: rest →
    (n = 0 → step s = .next { s with inputs := rest, rdata := some 0 }) ∧
    (∀ o, n = 1 → s.op = some o →
      step s = .next { s with inputs := rest, rdata := some (o.setWidth 34) }) ∧
    (∀ k, n = 2 → s.slot = some k →
      step s = .next { s with inputs := rest, rdata := some (k.setWidth 34) }) ∧
    (∀ w, n = 3 → s.w = some w →
      step s = .next { s with inputs := rest, rdata := some (w.setWidth 34) }) ∧
    (∀ h, n = 4 → s.h = some h →
      step s = .next { s with inputs := rest, rdata := some (h.setWidth 34) }) ∧
    (∀ l, n = 5 → s.flen = some l → step s = .next { s with inputs := rest, rdata := some l }) ∧
    (∀ l, n = 6 → s.plen = some l → step s = .next { s with inputs := rest, rdata := some l }) ∧
    (n = 7 → step s = .next { s with
      inputs := rest
      rdata := some (match s.status with | .idle => 0 | .busy => 1 | .done => 2 | .error => 3) }) ∧
    (n = 8 → step s = .next { s with
      inputs := rest
      rdata := some (match s.err with
        | .none => 0
        | .invalidSlot => 1
        | .protocolViolation => 2
        | .formatError => 3
        | .transportTimeout => 4
        | .transportError => 5) }) ∧
    (∀ d, (n = 1 ∧ s.op = none ∧ d = 2 ∨ n = 2 ∧ s.slot = none ∧ d = 8 ∨
        n = 3 ∧ s.w = none ∧ d = 16 ∨ n = 4 ∧ s.h = none ∧ d = 16 ∨
        n = 5 ∧ s.flen = none ∧ d = 34 ∨ n = 6 ∧ s.plen = none ∧ d = 34) →
      step s = .next { s with
        inputs := rest, freeCtr := s.freeCtr + 1
        rdata := some (BitVec.ofNat 34 ((Config.freeRead s.freeCtr).toNat % 2 ^ d)) })

/-- The buffer windows: a byte write, not BUSY, changes that byte of that buffer alone; a byte read
returns the byte the buffer holds at an index below the length register, and the free value anywhere
else: at or above the length, where the buffer holds no byte, and while the buffer or the length register
holds no value (R11, R19, R20, R41, U6). The model's choice: a byte write into a buffer that holds no value
gives that byte alone one (log 10), the read port (log 4), no byte to read under an absent length (log 20),
and a byte write at any index whatever MAXPIX is (log 21). -/
def Obligations.HostUsesTheWindows : Prop :=
  ∀ (s : State) (rest : List Input) (i : Len) (b : Byte),
    (s.status ≠ .busy → s.inputs = .writeByte .full i b :: rest →
      ∃ m, step s = .next { s with inputs := rest, full := some m } ∧
        ∀ j, Memory.read m j =
          if j = i.toNat then some b else (s.full.bind fun m₀ => Memory.read m₀ j)) ∧
    (s.status ≠ .busy → s.inputs = .writeByte .packed i b :: rest →
      ∃ m, step s = .next { s with inputs := rest, packed := some m } ∧
        ∀ j, Memory.read m j =
          if j = i.toNat then some b else (s.packed.bind fun m₀ => Memory.read m₀ j)) ∧
    (∀ n m, s.inputs = .readByte .full i :: rest → s.flen = some n → s.full = some m →
      i.toNat < n.toNat → Memory.read m i.toNat = some b →
      step s = .next { s with inputs := rest, rdata := some (b.setWidth 34) }) ∧
    (∀ n m, s.inputs = .readByte .packed i :: rest → s.plen = some n → s.packed = some m →
      i.toNat < n.toNat → Memory.read m i.toNat = some b →
      step s = .next { s with inputs := rest, rdata := some (b.setWidth 34) }) ∧
    (s.inputs = .readByte .full i :: rest →
      (s.flen = none ∨ s.full = none ∨ (∃ n, s.flen = some n ∧ n.toNat ≤ i.toNat) ∨
        ∃ m, s.full = some m ∧ Memory.read m i.toNat = none) →
      step s = .next { s with
        inputs := rest, freeCtr := s.freeCtr + 1
        rdata := some (BitVec.ofNat 34 ((Config.freeRead s.freeCtr).toNat % 256)) }) ∧
    (s.inputs = .readByte .packed i :: rest →
      (s.plen = none ∨ s.packed = none ∨ (∃ n, s.plen = some n ∧ n.toNat ≤ i.toNat) ∨
        ∃ m, s.packed = some m ∧ Memory.read m i.toNat = none) →
      step s = .next { s with
        inputs := rest, freeCtr := s.freeCtr + 1
        rdata := some (BitVec.ofNat 34 ((Config.freeRead s.freeCtr).toNat % 256)) })

/-- A whole-buffer assignment, not BUSY: byte j of the sequence stands at index j and no other byte holds
a value, and the length register holds its length; nothing else changes (R7). That the host has it is
the model's reading (log 10), and that it takes more than MAXPIX pixels is its choice (log 21). -/
def Obligations.HostLoadsAWholeBuffer : Prop :=
  ∀ (s : State) (rest : List Input) (bs : List Byte), s.status ≠ .busy → bs.length < 2 ^ 34 →
    (s.inputs = .load .full bs :: rest →
      ∃ m n, step s = .next { s with inputs := rest, full := some m, flen := some n } ∧
        n.toNat = bs.length ∧ ∀ j, Memory.read m j = bs[j]?) ∧
    (s.inputs = .load .packed bs :: rest →
      ∃ m n, step s = .next { s with inputs := rest, packed := some m, plen := some n } ∧
        n.toNat = bs.length ∧ ∀ j, Memory.read m j = bs[j]?)

/-- While BUSY every host write, of a register, of a buffer byte or of a whole buffer, and every START is
refused by name (R11, R25, R195, U4). -/
def Obligations.HostWritesRefusedWhileBusy : Prop :=
  ∀ (s : State) (i : Input) (rest : List Input), s.status = .busy → s.inputs = i :: rest →
    ((∃ n v, i = .writeReg n v ∧ n.toNat ≤ 8) ∨ (∃ buf k b, i = .writeByte buf k b) ∨
      ∃ buf bs, i = .load buf bs) →
    step s = .refused .hostWhileBusy

/-- A host access to register number 9 to 15 faults by name, at any time: there are nine registers,
numbered 0 to 8 (R11). The fault is the model's word for an access the spec gives no register (log 10). -/
def Obligations.NoRegisterBeyondEight : Prop :=
  ∀ (s : State) (n : RegNumber) (v : Len) (rest : List Input), 9 ≤ n.toNat →
    (s.inputs = .writeReg n v :: rest → step s = .fault .noSuchRegister) ∧
    (s.inputs = .readReg n :: rest → step s = .fault .noSuchRegister)

/-! ### Reset (R30, R190 to R192) -/

/-- The state after reset: STATUS IDLE, ERR NONE, PHASE IDLE, every other register and both buffers
holding no value, nothing on the wire, both outputs low (R26, R30); MAXPIX at its default (R5). -/
def Obligations.ResetState : Prop :=
  State.reset.status = .idle ∧ State.reset.err = .none ∧ State.reset.phase = .idle ∧
    State.reset.op = none ∧ State.reset.slot = none ∧ State.reset.w = none ∧
    State.reset.h = none ∧ State.reset.flen = none ∧ State.reset.plen = none ∧
    State.reset.full = none ∧ State.reset.packed = none ∧ State.reset.cnt = none ∧
    State.reset.hdr = ⟨none, none, none, none⟩ ∧ State.reset.exp = none ∧
    State.reset.tx = [] ∧ State.reset.doneOut = false ∧ State.reset.errOut = false ∧
    State.reset.phase.offersTx = false ∧ State.reset.phase.requestsRx = false ∧
    State.reset.maxPix = 65535 * 65535

/-- The reset input, in ANY state, BUSY included: the next state's registers, buffers and hidden registers
are those of reset, with no fault code; the transport's streams and what the host holds are untouched
(R30, R190, R191, R192). That the moves to come, dpOut and MAXPIX survive is the model's reading (log 18),
and so is its choice for what the host has read and the counter of free values (log 4). -/
def Obligations.ResetFromAnyState : Prop :=
  ∀ (s : State) (rest : List Input), s.inputs = .reset :: rest →
    step s = .next { State.reset with
      tx := s.tx, txAns := s.txAns, rx := s.rx, inputs := rest, rdata := s.rdata
      dpOut := s.dpOut, freeCtr := s.freeCtr, maxPix := s.maxPix }

/-! ### Whole-machine rules -/

/-- The invariant holds after reset. -/
def Obligations.ResetSatisfiesInv : Prop := State.reset.Inv

/-- Every step, of the host, of the reset input or of the sequencer, keeps the invariant: BUSY exactly
while PHASE is not IDLE (R21), ERR NONE exactly while not ERROR (R18), both buffers in canonical form,
and in each phase what the phases before it established, a PUT's HDR from START on and EXP = W*H*2 among
it (R22 to R24, R29). When the hidden registers are written is partly the model's reading (log 7), and so
are the canonical form (log 17) and the bounds by MAXPIX (log 9). -/
def Obligations.EveryStepKeepsInv : Prop :=
  ∀ s t : State, s.Inv → step s = .next t → t.Inv

/-- The sequencer never stops: from a state with the invariant and no host move pending a step answers a
next state, but for the one case the spec leaves undefined, a GET header of more than MAXPIX pixels at
its fourth byte; with the default MAXPIX there is no such case (R140, R199, R200, U5). A step that only
waits for the transport counts as one (log 14). -/
def Obligations.SequencerNeverStops : Prop :=
  ∀ s : State, s.Inv → s.inputs = [] →
    ((∃ t, step s = .next t) ∨
      (step s = .refused .overCapacity ∧ s.phase = .gHdr ∧ s.cnt = some 3)) ∧
    (s.maxPix = 65535 * 65535 → ∃ t, step s = .next t)

/-- Stream discipline: in any step TX only grows, by at most one byte and only in a phase that offers one,
and RX only shrinks, by at most one answer and only in a phase that requests one. A byte outside an
exchange stays in the stream (R54, R131, R170, R192). -/
def Obligations.StreamsMoveOnlyOnRequest : Prop :=
  ∀ s t : State, step s = .next t →
    (t.tx = s.tx ∨ s.phase.offersTx = true ∧ ∃ b, t.tx = s.tx ++ [b]) ∧
    (t.txAns = s.txAns ∨ s.phase.offersTx = true ∧ ∃ a, s.txAns = a :: t.txAns) ∧
    (t.rx = s.rx ∨ s.phase.requestsRx = true ∧ ∃ a, s.rx = a :: t.rx)

/-- The first byte of an exchange is one of the eight command bytes: whatever a step in G_CMD or P_CMD
puts on TX is the get, or the put, command byte of SLOT (R61, R69, R120, R121). -/
def Obligations.OnlyCommandBytesOpenAnExchange : Prop :=
  ∀ (s t : State) (b : Byte), step s = .next t → t.tx = s.tx ++ [b] →
    (s.phase = .gCmd → b ∈ [(0x21 : Byte), 0x31, 0x41, 0x51] ∧ s.slot.bind getCommand = some b) ∧
    (s.phase = .pCmd → b ∈ [(0x24 : Byte), 0x34, 0x44, 0x54] ∧ s.slot.bind putCommand = some b)

/-- DONE for a PUT is set only after the second acknowledgement 0xAC has been received: a step of a PUT
that ends with DONE is the step of P_ACK2 that reads 0xAC (R17, R51). -/
def Obligations.PutDoneNeedsTheSecondAck : Prop :=
  ∀ s t : State, s.Inv → s.phase.op = some .put → step s = .next t → t.status = .done →
    s.phase = .pAck2 ∧ s.rx = .rxByte 0xAC :: t.rx

/-- Every fault is taken as the abort: whenever a step turns STATUS to ERROR, an operation was running and
what was left is the abort of that operation with the code now in ERR, which is not NONE (R167, R168,
R169). -/
def Obligations.EveryFaultIsTheAbort : Prop :=
  ∀ s t : State, s.Inv → step s = .next t → t.status = .error → s.status ≠ .error →
    ∃ o, s.phase.op = some o ∧ t.err ≠ .none ∧
      State.Aborted o t.err { s with inputs := t.inputs } t

/-- While an operation runs, a step that is not the reset input leaves its "in" and "keep" registers and
buffers untouched, DONE and ERROR included (R12, R28, R29). -/
def Obligations.RunningOperationKeepsItsInputs : Prop :=
  ∀ (s t : State) (o : HostOp), s.Inv → s.phase.op = some o → (∀ rest, s.inputs ≠ .reset :: rest) →
    step s = .next t → State.InputsKept o s t

/-- While an operation runs its results are not there: until DONE its "out" and "void" registers hold no
value, PACKED alone serving GET and PUT as their transient buffer; and a step to DONE leaves every "void"
one without a value (R28, R29, R197). -/
def Obligations.NoPartialResult : Prop :=
  ∀ s : State, s.Inv →
    (s.phase.op = some .get →
      s.w = none ∧ s.h = none ∧ s.flen = none ∧ s.full = none ∧ s.plen = none) ∧
    (s.phase.op = some .put → s.plen = none) ∧
    (s.phase.op = some .decode → s.flen = none ∧ s.full = none) ∧
    (s.phase.op = some .encode → s.plen = none ∧ s.packed = none) ∧
    (∀ t, (s.phase.op = some .get ∨ s.phase.op = some .put) → step s = .next t →
      t.status = .done → t.packed = none ∧ t.plen = none)

/-- No step changes the capacity parameter MAXPIX; a step takes at most one free value, and only a host
read of a register or of a buffer byte that holds no value does; and the read port changes only on a host
read (R5, R27, U6). MAXPIX as a constant field (log 9), the counter and the read port (log 4) and what
byte of a window holds a value (log 17, 20) are the model's choice. -/
def Obligations.ParameterIsConstant : Prop :=
  ∀ s t : State, step s = .next t →
    t.maxPix = s.maxPix ∧
    (t.freeCtr = s.freeCtr ∨ t.freeCtr = s.freeCtr + 1 ∧ ∃ rest,
      (s.inputs = .readReg 1 :: rest ∧ s.op = none ∨ s.inputs = .readReg 2 :: rest ∧ s.slot = none ∨
        s.inputs = .readReg 3 :: rest ∧ s.w = none ∨ s.inputs = .readReg 4 :: rest ∧ s.h = none ∨
        s.inputs = .readReg 5 :: rest ∧ s.flen = none ∨
        s.inputs = .readReg 6 :: rest ∧ s.plen = none ∨
        ∃ buf i, s.inputs = .readByte buf i :: rest ∧ s.windowByte buf i = none)) ∧
    ((∀ n rest, s.inputs ≠ .readReg n :: rest) → (∀ b i rest, s.inputs ≠ .readByte b i :: rest) →
      t.rdata = s.rdata)

/-! ### Whole operations, from START to the end -/

/-- A whole GET: with a valid slot and a device that answers 0x10, the header of a W by H frame and its
payload, the 8 + 2*W*H steps from START send exactly the command byte, read exactly 1 + 4 + W*H*2 bytes,
leave the bytes behind them in the stream, and end with DONE and the decoded frame when W*H is even, with
FormatError and no result when it is odd (R127, R130, R131, R143). That the hidden registers hold no value
from DONE on is the model's reading of R28 (b) (log 7). -/
def Obligations.WholeGetRuns : Prop :=
  ∀ (s : State) (v : Len) (k : Byte) (w h : Dim) (p : List Byte) (as : List TxAnswer)
    (rest : List RxAnswer),
    s.phase = .idle → s.status ≠ .busy → s.op = some 0 → s.slot = some k →
    1 ≤ k.toNat → k.toNat ≤ 4 → s.inputs = [.writeReg 0 v] → v.getLsbD 0 = true →
    0 < w.toNat → 0 < h.toNat → w.toNat * h.toNat ≤ s.maxPix →
    p.length = w.toNat * h.toNat * 2 → s.txAns = .txOk :: as →
    s.rx = .rxByte 0x10 :: ((headerBytes w h ++ p).map .rxByte ++ rest) →
    ∃ t : State, Host.Core.run Sys2Proof.core (8 + 2 * (w.toNat * h.toNat)) s = .next t ∧
      (∃ c : Byte, c.toNat = 0x11 + k.toNat * 0x10 ∧ t.tx = s.tx ++ [c]) ∧
      t.txAns = as ∧ t.rx = rest ∧ t.op = s.op ∧ t.slot = s.slot ∧ t.phase = .idle ∧
      t.hiddenVoid ∧ t.packed = none ∧ t.plen = none ∧
      (w.toNat * h.toNat % 2 = 0 → t.status = .done ∧ t.err = .none ∧ t.w = some w ∧
        t.h = some h ∧ ∃ f m n, decodeBuf p = some f ∧ t.full = some m ∧
          (∀ j, Memory.read m j = f[j]?) ∧ t.flen = some n ∧ n.toNat = w.toNat * h.toNat * 3) ∧
      (w.toNat * h.toNat % 2 = 1 → t.status = .error ∧ t.err = .formatError ∧ t.w = none ∧
        t.h = none ∧ t.full = none ∧ t.flen = none)

/-- A whole PUT: with a valid slot, a W by H frame of even area in FULL and a device that takes every byte
and answers 0xAC twice, the 9 + 2*W*H steps from START send exactly the command byte, the header and the
encoded frame, read exactly two bytes, and end with DONE, the request untouched and PACKED, PLEN and the
hidden registers holding no value (R129, R144). The last, for the hidden registers, is the model's reading
of R28 (b) (log 7). -/
def Obligations.WholePutRuns : Prop :=
  ∀ (s : State) (v : Len) (k : Byte) (w h : Dim) (f : List Byte) (as : List TxAnswer)
    (rest : List RxAnswer),
    s.phase = .idle → s.status ≠ .busy → s.op = some 1 → s.slot = some k →
    1 ≤ k.toNat → k.toNat ≤ 4 → s.inputs = [.writeReg 0 v] → v.getLsbD 0 = true →
    s.w = some w → s.h = some h → contentOf s.flen s.full = some f →
    0 < w.toNat → 0 < h.toNat → w.toNat * h.toNat ≤ s.maxPix → w.toNat * h.toNat % 2 = 0 →
    f.length = w.toNat * h.toNat * 3 →
    s.txAns = List.replicate (5 + w.toNat * h.toNat * 2) .txOk ++ as →
    s.rx = .rxByte 0xAC :: .rxByte 0xAC :: rest →
    ∃ (c : Byte) (p : List Byte), c.toNat = 0x14 + k.toNat * 0x10 ∧ encodeBuf f = some p ∧
      Host.Core.run Sys2Proof.core (9 + 2 * (w.toNat * h.toNat)) s = .next { s with
        tx := s.tx ++ (c :: (headerBytes w h ++ p)), txAns := as, rx := rest, inputs := []
        status := .done, err := .none, phase := .idle, packed := none, plen := none
        cnt := none, exp := none, hdr := ⟨none, none, none, none⟩ }

/-- ENCODE and then DECODE, from START to the second DONE, five steps without the transport: FULL ends up
holding DECODEBUF of ENCODEBUF of what it held, of the same length, and PACKED the encoding
(R140, R145, R146). The host's moves as a list (log 2), the bound by 3*MAXPIX (log 9) and OP taking the low
bits of the port (log 10) are the model's reading. -/
def Obligations.EncodeThenDecodeRuns : Prop :=
  ∀ (s : State) (v o : Len) (n : Len) (f : List Byte),
    s.phase = .idle → s.status ≠ .busy → s.op = some 3 → s.flen = some n →
    contentOf s.flen s.full = some f → n.toNat % 6 = 0 → n.toNat ≤ 3 * s.maxPix →
    s.maxPix ≤ 65535 * 65535 → v.getLsbD 0 = true → o.extractLsb' 0 2 = 2 →
    s.inputs = [.writeReg 0 v, .proceed, .writeReg 1 o, .writeReg 0 v] →
    ∃ (p g : List Byte) (t : State), encodeBuf f = some p ∧ decodeBuf p = some g ∧
      Host.Core.run Sys2Proof.core 5 s = .next t ∧ t.status = .done ∧ t.err = .none ∧
      t.flen = some n ∧ contentOf t.flen t.full = some g ∧ contentOf t.plen t.packed = some p ∧
      t.slot = s.slot ∧ t.w = s.w ∧ t.h = s.h ∧ t.tx = s.tx ∧ t.rx = s.rx ∧
      t.txAns = s.txAns

/-! ### The reference framestore, an optional environment (R44): premises about the device, no rule of
the core -/

/-- With the reference framestore as the device (R44, log 11): the bytes of a whole put exchange make it
answer 0xAC and 0xAC and leave the addressed cell unspecified until the core has seen the exchange
through, which then holds (W, H, payload); every other cell is untouched throughout. -/
def Obligations.ReferenceFramestoreStores : Prop :=
  ∀ (d : Framestore) (k c : Byte) (w h : Dim) (p : List Byte) (s : State),
    d.link = .ready → putCommand k = some c → 0 < p.length →
    p.length = w.toNat * h.toNat * 2 → s.phase = .idle → s.status = .done →
    ∃ d', d.takeAll (c :: (headerBytes w h ++ p)) = (d', [0xAC, 0xAC]) ∧
      d'.cell k = .unspecified ∧ (d'.settle s).cell k = .holds w h p ∧
      (d'.settle s).link = .ready ∧
      ∀ j, j ≠ k → d'.cell j = d.cell j ∧ (d'.settle s).cell j = d.cell j

/-- With the reference framestore as the device (R44, log 11): a get command for a cell that holds a frame
is answered with 0x10, the frame's header and its payload, and changes no cell (R44). The model's choice
(log 11): the whole reply is given at once and leaves the device at an exchange boundary, and for any other
cell, where R44 leaves the behaviour unspecified, it answers nothing of itself. -/
def Obligations.ReferenceFramestoreFetches : Prop :=
  ∀ (d : Framestore) (k c : Byte), d.link = .ready → getCommand k = some c →
    (∀ w h p, d.cell k = .holds w h p → d.take c = (d, 0x10 :: (headerBytes w h ++ p))) ∧
    ((∀ w h p, d.cell k ≠ .holds w h p) →
      (d.take c).2 = [] ∧ ∀ j, (d.take c).1.cell j = d.cell j)

/-- With the reference framestore as the device (R44, log 11), the cells are independent: no turn of the
device changes a cell but that of the slot whose put exchange it is in, or whose put command it takes. -/
def Obligations.ReferenceSlotsAreIndependent : Prop :=
  ∀ (d : Framestore) (s : State) (b j : Byte),
    ((d.take b).1.cell j ≠ d.cell j → putCommand j = some b) ∧
    ((d.settle s).cell j ≠ d.cell j → ∃ w h p, d.link = .storing j w h p)
end

