-- ==== Sys2Proof/Laws/Codec.lean ====
section
/-! SUPPORT. The pixel codec: the length of a run of groups (R104). -/

namespace Sys2Proof.Machine

theorem length_decodeGroups (p : List Byte) :
    (decodeGroups p).length = p.length / 4 * 6 := by
  induction p using decodeGroups.induct with
  | case1 y1 cb y2 cr rest ih =>
    simp only [decodeGroups, decodeGroup, List.length_append, List.length_cons, List.length_nil, ih]
    omega
  | case2 p h =>
    match p, h with
    | [], _ => rfl
    | [_], _ => simp [decodeGroups]
    | [_, _], _ => simp [decodeGroups]
    | [_, _, _], _ => simp [decodeGroups]
    | y1 :: cb :: y2 :: cr :: rest, h => exact (h y1 cb y2 cr rest rfl).elim

theorem length_encodeGroups (f : List Byte) :
    (encodeGroups f).length = f.length / 6 * 4 := by
  induction f using encodeGroups.induct with
  | case1 r1 g1 b1 r2 g2 b2 rest ih =>
    simp only [encodeGroups, encodeGroup, List.length_append, List.length_cons, List.length_nil, ih]
    omega
  | case2 f h =>
    match f, h with
    | [], _ => rfl
    | [_], _ => simp [encodeGroups]
    | [_, _], _ => simp [encodeGroups]
    | [_, _, _], _ => simp [encodeGroups]
    | [_, _, _, _], _ => simp [encodeGroups]
    | [_, _, _, _, _], _ => simp [encodeGroups]
    | r1 :: g1 :: b1 :: r2 :: g2 :: b2 :: rest, h =>
      exact (h r1 g1 b1 r2 g2 b2 rest rfl).elim

end Sys2Proof.Machine
end

