-- ==== Sys2Proof/Laws/Memory.lean ====
section
/-! SUPPORT. The buffers: every operation keeps the canonical form, what a read gives after a write,
and what a whole-buffer assignment and a buffer's valid content are. -/

namespace Sys2Proof.Machine

/-! ### The canonical form -/

theorem Memory.wf_cons {a : Nat} {b : Byte} {m : Memory} :
    Memory.wf ((a, b) :: m) ↔ (∀ x ∈ m, a < x.1) ∧ Memory.wf m := by
  simp [Memory.wf, List.pairwise_cons]

/-- Where the entries of a written buffer come from. -/
theorem Memory.mem_write {m : Memory} {k : Nat} {v : Byte} {x : Host.Cell}
    (h : x ∈ Memory.write m k v) : x = (k, v) ∨ x ∈ m := by
  induction m with
  | nil => simp_all [Memory.write]
  | cons c m ih =>
    obtain ⟨a, b⟩ := c
    simp only [Memory.write] at h
    split at h
    · simpa using h
    · split at h
      · simp only [List.mem_cons] at h ⊢
        tauto
      · simp only [List.mem_cons] at h ⊢
        rcases h with h | h
        · exact .inr (.inl h)
        · exact (ih h).imp_right .inr

theorem Memory.write_wf {m : Memory} (k : Nat) (v : Byte) (h : Memory.wf m) :
    Memory.wf (Memory.write m k v) := by
  induction m with
  | nil => simp [Memory.write, Memory.wf]
  | cons c m ih =>
    obtain ⟨a, b⟩ := c
    obtain ⟨ha, hm⟩ := Memory.wf_cons.1 h
    simp only [Memory.write]
    split
    · rename_i hk
      refine Memory.wf_cons.2 ⟨?_, h⟩
      intro x hx
      rcases List.mem_cons.1 hx with rfl | hx
      · exact hk
      · exact lt_trans hk (ha x hx)
    · split
      · rename_i hk
        subst hk
        exact Memory.wf_cons.2 ⟨ha, hm⟩
      · refine Memory.wf_cons.2 ⟨?_, ih hm⟩
        intro x hx
        rcases Memory.mem_write hx with rfl | hx
        · simp only; omega
        · exact ha x hx

theorem Memory.mem_layout {bs : List Byte} {k : Nat} {x : Host.Cell}
    (h : x ∈ Memory.layout k bs) : k ≤ x.1 ∧ x.1 < k + bs.length := by
  induction bs generalizing k with
  | nil => simp [Memory.layout] at h
  | cons b bs ih =>
    rcases List.mem_cons.1 h with rfl | h
    · simp
    · have := ih h
      simp only [List.length_cons]
      omega

theorem Memory.layout_wf (k : Nat) (bs : List Byte) : Memory.wf (Memory.layout k bs) := by
  induction bs generalizing k with
  | nil => simp [Memory.layout, Memory.wf]
  | cons b bs ih => exact Memory.wf_cons.2 ⟨fun x hx => (Memory.mem_layout hx).1, ih (k + 1)⟩

theorem Memory.ofBytes_wf (bs : List Byte) : Memory.wf (Memory.ofBytes bs) :=
  Memory.layout_wf 0 bs

/-! ### Reading -/

@[simp] theorem Memory.read_nil (k : Nat) : Memory.read [] k = none := rfl

theorem Memory.read_write_self (m : Memory) (k : Nat) (v : Byte) :
    Memory.read (Memory.write m k v) k = some v := by
  induction m with
  | nil => simp [Memory.write, Memory.read]
  | cons c m ih =>
    obtain ⟨a, b⟩ := c
    simp only [Memory.write]
    split
    · simp [Memory.read]
    · split
      · simp [Memory.read]
      · have : a ≠ k := by omega
        simpa [Memory.read, this] using ih

theorem Memory.read_write_ne (m : Memory) {k j : Nat} (v : Byte) (h : j ≠ k) :
    Memory.read (Memory.write m k v) j = Memory.read m j := by
  induction m with
  | nil => simp [Memory.write, Memory.read, h.symm]
  | cons c m ih =>
    obtain ⟨a, b⟩ := c
    simp only [Memory.write]
    split
    · simp [Memory.read, h.symm]
    · split
      · rename_i hk
        subst hk
        simp [Memory.read, h.symm]
      · simp [Memory.read, ih]

/-- What one write does, once: the byte at the index, every other index as before. -/
theorem Memory.read_write (m : Memory) (k j : Nat) (v : Byte) :
    Memory.read (Memory.write m k v) j = if j = k then some v else Memory.read m j := by
  split
  · rename_i h; subst h; exact Memory.read_write_self m j v
  · exact Memory.read_write_ne m v ‹_›

theorem Memory.read_eq_none_of_lt {m : Memory} {k : Nat} (h : ∀ x ∈ m, k < x.1) :
    Memory.read m k = none := by
  induction m with
  | nil => rfl
  | cons c m ih =>
    obtain ⟨a, b⟩ := c
    have ha : k < a := h (a, b) (by simp)
    have : a ≠ k := by omega
    simpa [Memory.read, this] using ih fun x hx => h x (by simp [hx])

theorem Memory.read_layout (k j : Nat) (bs : List Byte) :
    Memory.read (Memory.layout k bs) j = if j < k then none else bs[j - k]? := by
  induction bs generalizing k with
  | nil => simp [Memory.layout]
  | cons b bs ih =>
    simp only [Memory.layout, Memory.read, ih]
    by_cases h1 : k = j
    · subst h1; simp
    · by_cases h2 : j < k
      · have : j < k + 1 := by omega
        simp [h1, h2, this]
      · have h3 : ¬ j < k + 1 := by omega
        obtain ⟨d, hd⟩ : ∃ d, j - k = d + 1 := ⟨j - k - 1, by omega⟩
        have hd' : j - (k + 1) = d := by omega
        simp [h1, h2, h3, hd, hd']

/-- A whole-buffer assignment puts byte `j` of the sequence at index `j`. -/
@[simp] theorem Memory.read_ofBytes (bs : List Byte) (j : Nat) :
    Memory.read (Memory.ofBytes bs) j = bs[j]? := by
  simp [Memory.ofBytes, Memory.read_layout]

/-! ### A buffer's valid content -/

theorem Memory.length_bytesFrom {m : Memory} {k n : Nat} {bs : List Byte}
    (h : Memory.bytesFrom m k n = some bs) : bs.length = n - k := by
  induction m generalizing k bs with
  | nil =>
    simp only [Memory.bytesFrom] at h
    split at h
    · cases h; simp; omega
    · cases h
  | cons c m ih =>
    obtain ⟨a, b⟩ := c
    simp only [Memory.bytesFrom] at h
    split at h
    · cases h; simp; omega
    · split at h
      · obtain ⟨cs, hcs, rfl⟩ := Option.map_eq_some_iff.1 h
        have := ih hcs
        simp only [List.length_cons]
        omega
      · cases h

theorem Memory.read_of_bytesFrom {m : Memory} {k n : Nat} {bs : List Byte} (hm : Memory.wf m)
    (h : Memory.bytesFrom m k n = some bs) {j : Nat} (hk : k ≤ j) (hj : j < n) :
    Memory.read m j = bs[j - k]? := by
  induction m generalizing k bs with
  | nil =>
    simp only [Memory.bytesFrom] at h
    split at h
    · omega
    · cases h
  | cons c m ih =>
    obtain ⟨a, b⟩ := c
    simp only [Memory.bytesFrom] at h
    split at h
    · omega
    · split at h
      · rename_i ha
        subst ha
        obtain ⟨cs, hcs, rfl⟩ := Option.map_eq_some_iff.1 h
        by_cases hja : a = j
        · subst hja; simp [Memory.read]
        · have := ih (Memory.wf_cons.1 hm).2 hcs (by omega)
          obtain ⟨d, hd⟩ : ∃ d, j - a = d + 1 := ⟨j - a - 1, by omega⟩
          have hd' : j - (a + 1) = d := by omega
          simp [Memory.read, hja, this, hd, hd']
      · cases h

theorem Memory.length_firstBytes {m : Memory} {n : Nat} {bs : List Byte}
    (h : Memory.firstBytes m n = some bs) : bs.length = n := Memory.length_bytesFrom h

theorem Memory.read_of_firstBytes {m : Memory} {n : Nat} {bs : List Byte} (hm : Memory.wf m)
    (h : Memory.firstBytes m n = some bs) {j : Nat} (hj : j < n) : Memory.read m j = bs[j]? :=
  Memory.read_of_bytesFrom hm h (Nat.zero_le j) hj

theorem Memory.bytesFrom_layout (k : Nat) (bs : List Byte) :
    Memory.bytesFrom (Memory.layout k bs) k (k + bs.length) = some bs := by
  induction bs generalizing k with
  | nil => simp [Memory.layout, Memory.bytesFrom]
  | cons b bs ih =>
    have h : k + (bs.length + 1) = k + 1 + bs.length := by omega
    simp [Memory.layout, Memory.bytesFrom, h, ih (k + 1)]
    omega

/-- The valid content of an assigned buffer, under its own length. -/
theorem Memory.firstBytes_ofBytes (bs : List Byte) :
    Memory.firstBytes (Memory.ofBytes bs) bs.length = some bs := by
  have := Memory.bytesFrom_layout 0 bs
  simpa [Memory.firstBytes, Memory.ofBytes] using this

theorem Memory.write_layout_length (k : Nat) (bs : List Byte) (b : Byte) :
    Memory.write (Memory.layout k bs) (k + bs.length) b = Memory.layout k (bs ++ [b]) := by
  induction bs generalizing k with
  | nil => simp [Memory.layout, Memory.write]
  | cons c bs ih =>
    have h : k + (bs.length + 1) = k + 1 + bs.length := by omega
    have h1 : ¬ k + 1 + bs.length < k := by omega
    have h2 : k + 1 + bs.length ≠ k := by omega
    simp [Memory.layout, Memory.write, h, ih (k + 1), h1, h2]

/-- A write behind the last byte of an assigned buffer appends to it. -/
theorem Memory.write_ofBytes_length (bs : List Byte) (b : Byte) :
    Memory.write (Memory.ofBytes bs) bs.length b = Memory.ofBytes (bs ++ [b]) := by
  have := Memory.write_layout_length 0 bs b
  simpa [Memory.ofBytes] using this

/-- What `contentOf` answers, once. -/
theorem contentOf_eq_some {len : Option Len} {buf : Option Memory} {bs : List Byte} :
    contentOf len buf = some bs ↔
      ∃ n m, len = some n ∧ buf = some m ∧ Memory.firstBytes m n.toNat = some bs := by
  cases len <;> cases buf <;> simp [contentOf]

theorem length_of_contentOf {len : Option Len} {buf : Option Memory} {bs : List Byte}
    (h : contentOf len buf = some bs) : ∃ n, len = some n ∧ bs.length = n.toNat := by
  obtain ⟨n, m, hn, -, hb⟩ := contentOf_eq_some.1 h
  exact ⟨n, hn, Memory.length_firstBytes hb⟩

/-- The host's buffer moves keep the canonical form: a window write and a whole-buffer load. -/
theorem Memory.write_getD_wf {buf : Option Memory} (h : ∀ m, buf = some m → Memory.wf m) (k : Nat)
    (v : Byte) : Memory.wf (Memory.write (buf.getD []) k v) := by
  cases buf with
  | none => exact Memory.write_wf k v List.Pairwise.nil
  | some m => exact Memory.write_wf k v (h m rfl)

end Sys2Proof.Machine
end

