-- ==== Sys2Proof/Laws/State.lean ====
section
/-! SUPPORT. What each named update of State leaves in each field, so that no proof unfolds a record
update: one lemma per field per update. -/

namespace Sys2Proof.Machine

section
variable (s : State)

/-! `voidFor` (R28, R29) -/

@[simp] theorem State.voidFor_op (o : HostOp) : (s.voidFor o).op = s.op := by cases o <;> rfl
@[simp] theorem State.voidFor_slot (o : HostOp) : (s.voidFor o).slot = s.slot := by cases o <;> rfl
@[simp] theorem State.voidFor_status (o : HostOp) :
    (s.voidFor o).status = s.status := by cases o <;> rfl
@[simp] theorem State.voidFor_err (o : HostOp) : (s.voidFor o).err = s.err := by cases o <;> rfl
@[simp] theorem State.voidFor_phase (o : HostOp) :
    (s.voidFor o).phase = s.phase := by cases o <;> rfl
@[simp] theorem State.voidFor_cnt (o : HostOp) : (s.voidFor o).cnt = s.cnt := by cases o <;> rfl
@[simp] theorem State.voidFor_hdr (o : HostOp) : (s.voidFor o).hdr = s.hdr := by cases o <;> rfl
@[simp] theorem State.voidFor_exp (o : HostOp) : (s.voidFor o).exp = s.exp := by cases o <;> rfl
@[simp] theorem State.voidFor_tx (o : HostOp) : (s.voidFor o).tx = s.tx := by cases o <;> rfl
@[simp] theorem State.voidFor_txAns (o : HostOp) :
    (s.voidFor o).txAns = s.txAns := by cases o <;> rfl
@[simp] theorem State.voidFor_rx (o : HostOp) : (s.voidFor o).rx = s.rx := by cases o <;> rfl
@[simp] theorem State.voidFor_inputs (o : HostOp) :
    (s.voidFor o).inputs = s.inputs := by cases o <;> rfl
@[simp] theorem State.voidFor_rdata (o : HostOp) :
    (s.voidFor o).rdata = s.rdata := by cases o <;> rfl
@[simp] theorem State.voidFor_dpOut (o : HostOp) :
    (s.voidFor o).dpOut = s.dpOut := by cases o <;> rfl
@[simp] theorem State.voidFor_freeCtr (o : HostOp) :
    (s.voidFor o).freeCtr = s.freeCtr := by cases o <;> rfl
@[simp] theorem State.voidFor_maxPix (o : HostOp) :
    (s.voidFor o).maxPix = s.maxPix := by cases o <;> rfl
@[simp] theorem State.voidFor_get_w : (s.voidFor .get).w = none := rfl
@[simp] theorem State.voidFor_get_h : (s.voidFor .get).h = none := rfl
@[simp] theorem State.voidFor_get_flen : (s.voidFor .get).flen = none := rfl
@[simp] theorem State.voidFor_get_full : (s.voidFor .get).full = none := rfl
@[simp] theorem State.voidFor_get_plen : (s.voidFor .get).plen = none := rfl
@[simp] theorem State.voidFor_get_packed : (s.voidFor .get).packed = none := rfl
@[simp] theorem State.voidFor_put_w : (s.voidFor .put).w = s.w := rfl
@[simp] theorem State.voidFor_put_h : (s.voidFor .put).h = s.h := rfl
@[simp] theorem State.voidFor_put_flen : (s.voidFor .put).flen = s.flen := rfl
@[simp] theorem State.voidFor_put_full : (s.voidFor .put).full = s.full := rfl
@[simp] theorem State.voidFor_put_plen : (s.voidFor .put).plen = none := rfl
@[simp] theorem State.voidFor_put_packed : (s.voidFor .put).packed = none := rfl
@[simp] theorem State.voidFor_decode_w : (s.voidFor .decode).w = s.w := rfl
@[simp] theorem State.voidFor_decode_h : (s.voidFor .decode).h = s.h := rfl
@[simp] theorem State.voidFor_decode_flen : (s.voidFor .decode).flen = none := rfl
@[simp] theorem State.voidFor_decode_full : (s.voidFor .decode).full = none := rfl
@[simp] theorem State.voidFor_decode_plen : (s.voidFor .decode).plen = s.plen := rfl
@[simp] theorem State.voidFor_decode_packed : (s.voidFor .decode).packed = s.packed := rfl
@[simp] theorem State.voidFor_encode_w : (s.voidFor .encode).w = s.w := rfl
@[simp] theorem State.voidFor_encode_h : (s.voidFor .encode).h = s.h := rfl
@[simp] theorem State.voidFor_encode_flen : (s.voidFor .encode).flen = s.flen := rfl
@[simp] theorem State.voidFor_encode_full : (s.voidFor .encode).full = s.full := rfl
@[simp] theorem State.voidFor_encode_plen : (s.voidFor .encode).plen = none := rfl
@[simp] theorem State.voidFor_encode_packed : (s.voidFor .encode).packed = none := rfl

/-! `clearHidden` (R28, R167) -/

@[simp] theorem State.clearHidden_op : s.clearHidden.op = s.op := rfl
@[simp] theorem State.clearHidden_slot : s.clearHidden.slot = s.slot := rfl
@[simp] theorem State.clearHidden_w : s.clearHidden.w = s.w := rfl
@[simp] theorem State.clearHidden_h : s.clearHidden.h = s.h := rfl
@[simp] theorem State.clearHidden_flen : s.clearHidden.flen = s.flen := rfl
@[simp] theorem State.clearHidden_plen : s.clearHidden.plen = s.plen := rfl
@[simp] theorem State.clearHidden_status : s.clearHidden.status = s.status := rfl
@[simp] theorem State.clearHidden_err : s.clearHidden.err = s.err := rfl
@[simp] theorem State.clearHidden_full : s.clearHidden.full = s.full := rfl
@[simp] theorem State.clearHidden_packed : s.clearHidden.packed = s.packed := rfl
@[simp] theorem State.clearHidden_phase : s.clearHidden.phase = s.phase := rfl
@[simp] theorem State.clearHidden_cnt : s.clearHidden.cnt = none := rfl
@[simp] theorem State.clearHidden_hdr : s.clearHidden.hdr = Hdr.void := rfl
@[simp] theorem State.clearHidden_exp : s.clearHidden.exp = none := rfl
@[simp] theorem State.clearHidden_tx : s.clearHidden.tx = s.tx := rfl
@[simp] theorem State.clearHidden_txAns : s.clearHidden.txAns = s.txAns := rfl
@[simp] theorem State.clearHidden_rx : s.clearHidden.rx = s.rx := rfl
@[simp] theorem State.clearHidden_inputs : s.clearHidden.inputs = s.inputs := rfl
@[simp] theorem State.clearHidden_rdata : s.clearHidden.rdata = s.rdata := rfl
@[simp] theorem State.clearHidden_dpOut : s.clearHidden.dpOut = s.dpOut := rfl
@[simp] theorem State.clearHidden_freeCtr : s.clearHidden.freeCtr = s.freeCtr := rfl
@[simp] theorem State.clearHidden_maxPix : s.clearHidden.maxPix = s.maxPix := rfl

/-! `begin`: START (R149) -/

@[simp] theorem State.begin_op (o : HostOp) : (s.begin o).op = s.op := by cases o <;> rfl
@[simp] theorem State.begin_slot (o : HostOp) : (s.begin o).slot = s.slot := by cases o <;> rfl
@[simp] theorem State.begin_w (o : HostOp) : (s.begin o).w = (s.voidFor o).w := rfl
@[simp] theorem State.begin_h (o : HostOp) : (s.begin o).h = (s.voidFor o).h := rfl
@[simp] theorem State.begin_flen (o : HostOp) : (s.begin o).flen = (s.voidFor o).flen := rfl
@[simp] theorem State.begin_plen (o : HostOp) : (s.begin o).plen = (s.voidFor o).plen := rfl
@[simp] theorem State.begin_status (o : HostOp) : (s.begin o).status = .busy := rfl
@[simp] theorem State.begin_err (o : HostOp) : (s.begin o).err = .none := rfl
@[simp] theorem State.begin_full (o : HostOp) : (s.begin o).full = (s.voidFor o).full := rfl
@[simp] theorem State.begin_packed (o : HostOp) : (s.begin o).packed = (s.voidFor o).packed := rfl
@[simp] theorem State.begin_phase (o : HostOp) : (s.begin o).phase = o.firstPhase := rfl
@[simp] theorem State.begin_cnt (o : HostOp) : (s.begin o).cnt = none := rfl
@[simp] theorem State.begin_hdr (o : HostOp) : (s.begin o).hdr = s.startHdr o := rfl
@[simp] theorem State.startHdr_get : s.startHdr .get = Hdr.void := rfl
@[simp] theorem State.startHdr_decode : s.startHdr .decode = Hdr.void := rfl
@[simp] theorem State.startHdr_encode : s.startHdr .encode = Hdr.void := rfl
theorem State.startHdr_put {w h : Dim} (hw : s.w = some w) (hh : s.h = some h) :
    s.startHdr .put = Hdr.ofDims w h := by
  simp [State.startHdr, hw, hh]
@[simp] theorem State.begin_exp (o : HostOp) : (s.begin o).exp = none := rfl
@[simp] theorem State.begin_tx (o : HostOp) : (s.begin o).tx = s.tx := by cases o <;> rfl
@[simp] theorem State.begin_txAns (o : HostOp) : (s.begin o).txAns = s.txAns := by cases o <;> rfl
@[simp] theorem State.begin_rx (o : HostOp) : (s.begin o).rx = s.rx := by cases o <;> rfl
@[simp] theorem State.begin_inputs (o : HostOp) :
    (s.begin o).inputs = s.inputs := by cases o <;> rfl
@[simp] theorem State.begin_rdata (o : HostOp) : (s.begin o).rdata = s.rdata := by cases o <;> rfl
@[simp] theorem State.begin_dpOut (o : HostOp) : (s.begin o).dpOut = s.dpOut := by cases o <;> rfl
@[simp] theorem State.begin_freeCtr (o : HostOp) :
    (s.begin o).freeCtr = s.freeCtr := by cases o <;> rfl
@[simp] theorem State.begin_maxPix (o : HostOp) :
    (s.begin o).maxPix = s.maxPix := by cases o <;> rfl

/-! `abort`: the abort (R167) -/

@[simp] theorem State.abort_op (o : HostOp) (c : ErrCode) :
    (s.abort o c).op = s.op := by cases o <;> rfl
@[simp] theorem State.abort_slot (o : HostOp) (c : ErrCode) :
    (s.abort o c).slot = s.slot := by cases o <;> rfl
@[simp] theorem State.abort_w (o : HostOp) (c : ErrCode) : (s.abort o c).w = (s.voidFor o).w := rfl
@[simp] theorem State.abort_h (o : HostOp) (c : ErrCode) : (s.abort o c).h = (s.voidFor o).h := rfl
@[simp] theorem State.abort_flen (o : HostOp) (c : ErrCode) :
    (s.abort o c).flen = (s.voidFor o).flen := rfl
@[simp] theorem State.abort_plen (o : HostOp) (c : ErrCode) :
    (s.abort o c).plen = (s.voidFor o).plen := rfl
@[simp] theorem State.abort_status (o : HostOp) (c : ErrCode) : (s.abort o c).status = .error := rfl
@[simp] theorem State.abort_err (o : HostOp) (c : ErrCode) : (s.abort o c).err = c := rfl
@[simp] theorem State.abort_full (o : HostOp) (c : ErrCode) :
    (s.abort o c).full = (s.voidFor o).full := rfl
@[simp] theorem State.abort_packed (o : HostOp) (c : ErrCode) :
    (s.abort o c).packed = (s.voidFor o).packed := rfl
@[simp] theorem State.abort_phase (o : HostOp) (c : ErrCode) : (s.abort o c).phase = .idle := rfl
@[simp] theorem State.abort_cnt (o : HostOp) (c : ErrCode) : (s.abort o c).cnt = none := rfl
@[simp] theorem State.abort_hdr (o : HostOp) (c : ErrCode) : (s.abort o c).hdr = Hdr.void := rfl
@[simp] theorem State.abort_exp (o : HostOp) (c : ErrCode) : (s.abort o c).exp = none := rfl
@[simp] theorem State.abort_tx (o : HostOp) (c : ErrCode) :
    (s.abort o c).tx = s.tx := by cases o <;> rfl
@[simp] theorem State.abort_txAns (o : HostOp) (c : ErrCode) :
    (s.abort o c).txAns = s.txAns := by cases o <;> rfl
@[simp] theorem State.abort_rx (o : HostOp) (c : ErrCode) :
    (s.abort o c).rx = s.rx := by cases o <;> rfl
@[simp] theorem State.abort_inputs (o : HostOp) (c : ErrCode) :
    (s.abort o c).inputs = s.inputs := by cases o <;> rfl
@[simp] theorem State.abort_rdata (o : HostOp) (c : ErrCode) :
    (s.abort o c).rdata = s.rdata := by cases o <;> rfl
@[simp] theorem State.abort_dpOut (o : HostOp) (c : ErrCode) :
    (s.abort o c).dpOut = s.dpOut := by cases o <;> rfl
@[simp] theorem State.abort_freeCtr (o : HostOp) (c : ErrCode) :
    (s.abort o c).freeCtr = s.freeCtr := by cases o <;> rfl
@[simp] theorem State.abort_maxPix (o : HostOp) (c : ErrCode) :
    (s.abort o c).maxPix = s.maxPix := by cases o <;> rfl

/-! `finish` (R140) -/

@[simp] theorem State.finish_op : s.finish.op = s.op := rfl
@[simp] theorem State.finish_slot : s.finish.slot = s.slot := rfl
@[simp] theorem State.finish_w : s.finish.w = s.w := rfl
@[simp] theorem State.finish_h : s.finish.h = s.h := rfl
@[simp] theorem State.finish_flen : s.finish.flen = s.flen := rfl
@[simp] theorem State.finish_plen : s.finish.plen = s.plen := rfl
@[simp] theorem State.finish_status : s.finish.status = .done := rfl
@[simp] theorem State.finish_err : s.finish.err = s.err := rfl
@[simp] theorem State.finish_full : s.finish.full = s.full := rfl
@[simp] theorem State.finish_packed : s.finish.packed = s.packed := rfl
@[simp] theorem State.finish_phase : s.finish.phase = .idle := rfl
@[simp] theorem State.finish_cnt : s.finish.cnt = none := rfl
@[simp] theorem State.finish_hdr : s.finish.hdr = Hdr.void := rfl
@[simp] theorem State.finish_exp : s.finish.exp = none := rfl
@[simp] theorem State.finish_tx : s.finish.tx = s.tx := rfl
@[simp] theorem State.finish_txAns : s.finish.txAns = s.txAns := rfl
@[simp] theorem State.finish_rx : s.finish.rx = s.rx := rfl
@[simp] theorem State.finish_inputs : s.finish.inputs = s.inputs := rfl
@[simp] theorem State.finish_rdata : s.finish.rdata = s.rdata := rfl
@[simp] theorem State.finish_dpOut : s.finish.dpOut = s.dpOut := rfl
@[simp] theorem State.finish_freeCtr : s.finish.freeCtr = s.freeCtr := rfl
@[simp] theorem State.finish_maxPix : s.finish.maxPix = s.maxPix := rfl

/-! `sent` (R122) -/

@[simp] theorem State.sent_op (b : Byte) (as : List TxAnswer) : (s.sent b as).op = s.op := rfl
@[simp] theorem State.sent_slot (b : Byte) (as : List TxAnswer) : (s.sent b as).slot = s.slot := rfl
@[simp] theorem State.sent_w (b : Byte) (as : List TxAnswer) : (s.sent b as).w = s.w := rfl
@[simp] theorem State.sent_h (b : Byte) (as : List TxAnswer) : (s.sent b as).h = s.h := rfl
@[simp] theorem State.sent_flen (b : Byte) (as : List TxAnswer) : (s.sent b as).flen = s.flen := rfl
@[simp] theorem State.sent_plen (b : Byte) (as : List TxAnswer) : (s.sent b as).plen = s.plen := rfl
@[simp] theorem State.sent_status (b : Byte) (as : List TxAnswer) :
    (s.sent b as).status = s.status := rfl
@[simp] theorem State.sent_err (b : Byte) (as : List TxAnswer) : (s.sent b as).err = s.err := rfl
@[simp] theorem State.sent_full (b : Byte) (as : List TxAnswer) : (s.sent b as).full = s.full := rfl
@[simp] theorem State.sent_packed (b : Byte) (as : List TxAnswer) :
    (s.sent b as).packed = s.packed := rfl
@[simp] theorem State.sent_phase (b : Byte) (as : List TxAnswer) :
    (s.sent b as).phase = s.phase := rfl
@[simp] theorem State.sent_cnt (b : Byte) (as : List TxAnswer) : (s.sent b as).cnt = s.cnt := rfl
@[simp] theorem State.sent_hdr (b : Byte) (as : List TxAnswer) : (s.sent b as).hdr = s.hdr := rfl
@[simp] theorem State.sent_exp (b : Byte) (as : List TxAnswer) : (s.sent b as).exp = s.exp := rfl
@[simp] theorem State.sent_tx (b : Byte) (as : List TxAnswer) :
    (s.sent b as).tx = s.tx ++ [b] := rfl
@[simp] theorem State.sent_txAns (b : Byte) (as : List TxAnswer) : (s.sent b as).txAns = as := rfl
@[simp] theorem State.sent_rx (b : Byte) (as : List TxAnswer) : (s.sent b as).rx = s.rx := rfl
@[simp] theorem State.sent_inputs (b : Byte) (as : List TxAnswer) :
    (s.sent b as).inputs = s.inputs := rfl
@[simp] theorem State.sent_rdata (b : Byte) (as : List TxAnswer) :
    (s.sent b as).rdata = s.rdata := rfl
@[simp] theorem State.sent_dpOut (b : Byte) (as : List TxAnswer) :
    (s.sent b as).dpOut = s.dpOut := rfl
@[simp] theorem State.sent_freeCtr (b : Byte) (as : List TxAnswer) :
    (s.sent b as).freeCtr = s.freeCtr := rfl
@[simp] theorem State.sent_maxPix (b : Byte) (as : List TxAnswer) :
    (s.sent b as).maxPix = s.maxPix := rfl

/-! `afterReset` (R30, R192) -/

@[simp] theorem State.afterReset_op : s.afterReset.op = none := rfl
@[simp] theorem State.afterReset_slot : s.afterReset.slot = none := rfl
@[simp] theorem State.afterReset_w : s.afterReset.w = none := rfl
@[simp] theorem State.afterReset_h : s.afterReset.h = none := rfl
@[simp] theorem State.afterReset_flen : s.afterReset.flen = none := rfl
@[simp] theorem State.afterReset_plen : s.afterReset.plen = none := rfl
@[simp] theorem State.afterReset_status : s.afterReset.status = .idle := rfl
@[simp] theorem State.afterReset_err : s.afterReset.err = .none := rfl
@[simp] theorem State.afterReset_full : s.afterReset.full = none := rfl
@[simp] theorem State.afterReset_packed : s.afterReset.packed = none := rfl
@[simp] theorem State.afterReset_phase : s.afterReset.phase = .idle := rfl
@[simp] theorem State.afterReset_cnt : s.afterReset.cnt = none := rfl
@[simp] theorem State.afterReset_hdr : s.afterReset.hdr = Hdr.void := rfl
@[simp] theorem State.afterReset_exp : s.afterReset.exp = none := rfl
@[simp] theorem State.afterReset_tx : s.afterReset.tx = s.tx := rfl
@[simp] theorem State.afterReset_txAns : s.afterReset.txAns = s.txAns := rfl
@[simp] theorem State.afterReset_rx : s.afterReset.rx = s.rx := rfl
@[simp] theorem State.afterReset_inputs : s.afterReset.inputs = s.inputs := rfl
@[simp] theorem State.afterReset_rdata : s.afterReset.rdata = s.rdata := rfl
@[simp] theorem State.afterReset_dpOut : s.afterReset.dpOut = s.dpOut := rfl
@[simp] theorem State.afterReset_freeCtr : s.afterReset.freeCtr = s.freeCtr := rfl
@[simp] theorem State.afterReset_maxPix : s.afterReset.maxPix = s.maxPix := rfl

/-! `returned` (R85) -/

@[simp] theorem State.returned_op (bs : List Byte) : (s.returned bs).op = s.op := rfl
@[simp] theorem State.returned_slot (bs : List Byte) : (s.returned bs).slot = s.slot := rfl
@[simp] theorem State.returned_w (bs : List Byte) : (s.returned bs).w = s.w := rfl
@[simp] theorem State.returned_h (bs : List Byte) : (s.returned bs).h = s.h := rfl
@[simp] theorem State.returned_flen (bs : List Byte) : (s.returned bs).flen = s.flen := rfl
@[simp] theorem State.returned_plen (bs : List Byte) : (s.returned bs).plen = s.plen := rfl
@[simp] theorem State.returned_status (bs : List Byte) : (s.returned bs).status = s.status := rfl
@[simp] theorem State.returned_err (bs : List Byte) : (s.returned bs).err = s.err := rfl
@[simp] theorem State.returned_full (bs : List Byte) : (s.returned bs).full = s.full := rfl
@[simp] theorem State.returned_packed (bs : List Byte) : (s.returned bs).packed = s.packed := rfl
@[simp] theorem State.returned_phase (bs : List Byte) : (s.returned bs).phase = s.phase := rfl
@[simp] theorem State.returned_cnt (bs : List Byte) : (s.returned bs).cnt = s.cnt := rfl
@[simp] theorem State.returned_hdr (bs : List Byte) : (s.returned bs).hdr = s.hdr := rfl
@[simp] theorem State.returned_exp (bs : List Byte) : (s.returned bs).exp = s.exp := rfl
@[simp] theorem State.returned_tx (bs : List Byte) : (s.returned bs).tx = s.tx := rfl
@[simp] theorem State.returned_txAns (bs : List Byte) : (s.returned bs).txAns = s.txAns := rfl
@[simp] theorem State.returned_rx (bs : List Byte) : (s.returned bs).rx = s.rx := rfl
@[simp] theorem State.returned_inputs (bs : List Byte) : (s.returned bs).inputs = s.inputs := rfl
@[simp] theorem State.returned_rdata (bs : List Byte) : (s.returned bs).rdata = s.rdata := rfl
@[simp] theorem State.returned_dpOut (bs : List Byte) : (s.returned bs).dpOut = bs := rfl
@[simp] theorem State.returned_freeCtr (bs : List Byte) : (s.returned bs).freeCtr = s.freeCtr := rfl
@[simp] theorem State.returned_maxPix (bs : List Byte) : (s.returned bs).maxPix = s.maxPix := rfl

/-! `gotFrame` (R143) -/

@[simp] theorem State.gotFrame_op (w h : Dim) (f : List Byte) : (s.gotFrame w h f).op = s.op := rfl
@[simp] theorem State.gotFrame_slot (w h : Dim) (f : List Byte) :
    (s.gotFrame w h f).slot = s.slot := rfl
@[simp] theorem State.gotFrame_w (w h : Dim) (f : List Byte) : (s.gotFrame w h f).w = some w := rfl
@[simp] theorem State.gotFrame_h (w h : Dim) (f : List Byte) : (s.gotFrame w h f).h = some h := rfl
@[simp] theorem State.gotFrame_flen (w h : Dim) (f : List Byte) :
    (s.gotFrame w h f).flen = some (BitVec.ofNat 34 (fullLength w h)) := rfl
@[simp] theorem State.gotFrame_plen (w h : Dim) (f : List Byte) :
    (s.gotFrame w h f).plen = none := rfl
@[simp] theorem State.gotFrame_status (w h : Dim) (f : List Byte) :
    (s.gotFrame w h f).status = .done := rfl
@[simp] theorem State.gotFrame_err (w h : Dim) (f : List Byte) :
    (s.gotFrame w h f).err = s.err := rfl
@[simp] theorem State.gotFrame_full (w h : Dim) (f : List Byte) :
    (s.gotFrame w h f).full = some (Memory.ofBytes f) := rfl
@[simp] theorem State.gotFrame_packed (w h : Dim) (f : List Byte) :
    (s.gotFrame w h f).packed = none := rfl
@[simp] theorem State.gotFrame_phase (w h : Dim) (f : List Byte) :
    (s.gotFrame w h f).phase = .idle := rfl
@[simp] theorem State.gotFrame_cnt (w h : Dim) (f : List Byte) :
    (s.gotFrame w h f).cnt = none := rfl
@[simp] theorem State.gotFrame_hdr (w h : Dim) (f : List Byte) :
    (s.gotFrame w h f).hdr = Hdr.void := rfl
@[simp] theorem State.gotFrame_exp (w h : Dim) (f : List Byte) :
    (s.gotFrame w h f).exp = none := rfl
@[simp] theorem State.gotFrame_tx (w h : Dim) (f : List Byte) : (s.gotFrame w h f).tx = s.tx := rfl
@[simp] theorem State.gotFrame_txAns (w h : Dim) (f : List Byte) :
    (s.gotFrame w h f).txAns = s.txAns := rfl
@[simp] theorem State.gotFrame_rx (w h : Dim) (f : List Byte) : (s.gotFrame w h f).rx = s.rx := rfl
@[simp] theorem State.gotFrame_inputs (w h : Dim) (f : List Byte) :
    (s.gotFrame w h f).inputs = s.inputs := rfl
@[simp] theorem State.gotFrame_rdata (w h : Dim) (f : List Byte) :
    (s.gotFrame w h f).rdata = s.rdata := rfl
@[simp] theorem State.gotFrame_dpOut (w h : Dim) (f : List Byte) :
    (s.gotFrame w h f).dpOut = s.dpOut := rfl
@[simp] theorem State.gotFrame_freeCtr (w h : Dim) (f : List Byte) :
    (s.gotFrame w h f).freeCtr = s.freeCtr := rfl
@[simp] theorem State.gotFrame_maxPix (w h : Dim) (f : List Byte) :
    (s.gotFrame w h f).maxPix = s.maxPix := rfl

/-! `readValue` (R27, R51) -/

@[simp] theorem State.readValue_op (k : Nat) (v : Option (BitVec k)) :
    (s.readValue v).op = s.op := by cases v <;> rfl
@[simp] theorem State.readValue_slot (k : Nat) (v : Option (BitVec k)) :
    (s.readValue v).slot = s.slot := by cases v <;> rfl
@[simp] theorem State.readValue_w (k : Nat) (v : Option (BitVec k)) :
    (s.readValue v).w = s.w := by cases v <;> rfl
@[simp] theorem State.readValue_h (k : Nat) (v : Option (BitVec k)) :
    (s.readValue v).h = s.h := by cases v <;> rfl
@[simp] theorem State.readValue_flen (k : Nat) (v : Option (BitVec k)) :
    (s.readValue v).flen = s.flen := by cases v <;> rfl
@[simp] theorem State.readValue_plen (k : Nat) (v : Option (BitVec k)) :
    (s.readValue v).plen = s.plen := by cases v <;> rfl
@[simp] theorem State.readValue_status (k : Nat) (v : Option (BitVec k)) :
    (s.readValue v).status = s.status := by cases v <;> rfl
@[simp] theorem State.readValue_err (k : Nat) (v : Option (BitVec k)) :
    (s.readValue v).err = s.err := by cases v <;> rfl
@[simp] theorem State.readValue_full (k : Nat) (v : Option (BitVec k)) :
    (s.readValue v).full = s.full := by cases v <;> rfl
@[simp] theorem State.readValue_packed (k : Nat) (v : Option (BitVec k)) :
    (s.readValue v).packed = s.packed := by cases v <;> rfl
@[simp] theorem State.readValue_phase (k : Nat) (v : Option (BitVec k)) :
    (s.readValue v).phase = s.phase := by cases v <;> rfl
@[simp] theorem State.readValue_cnt (k : Nat) (v : Option (BitVec k)) :
    (s.readValue v).cnt = s.cnt := by cases v <;> rfl
@[simp] theorem State.readValue_hdr (k : Nat) (v : Option (BitVec k)) :
    (s.readValue v).hdr = s.hdr := by cases v <;> rfl
@[simp] theorem State.readValue_exp (k : Nat) (v : Option (BitVec k)) :
    (s.readValue v).exp = s.exp := by cases v <;> rfl
@[simp] theorem State.readValue_tx (k : Nat) (v : Option (BitVec k)) :
    (s.readValue v).tx = s.tx := by cases v <;> rfl
@[simp] theorem State.readValue_txAns (k : Nat) (v : Option (BitVec k)) :
    (s.readValue v).txAns = s.txAns := by cases v <;> rfl
@[simp] theorem State.readValue_rx (k : Nat) (v : Option (BitVec k)) :
    (s.readValue v).rx = s.rx := by cases v <;> rfl
@[simp] theorem State.readValue_inputs (k : Nat) (v : Option (BitVec k)) :
    (s.readValue v).inputs = s.inputs := by cases v <;> rfl
@[simp] theorem State.readValue_some_rdata (k : Nat) (v : BitVec k) :
    (s.readValue (some v)).rdata = some (v.setWidth 34) := rfl
@[simp] theorem State.readValue_none_rdata (k : Nat) :
    (s.readValue (none : Option (BitVec k))).rdata =
      some (((Config.freeRead s.freeCtr).setWidth k).setWidth 34) := rfl
@[simp] theorem State.readValue_dpOut (k : Nat) (v : Option (BitVec k)) :
    (s.readValue v).dpOut = s.dpOut := by cases v <;> rfl
@[simp] theorem State.readValue_some_freeCtr (k : Nat) (v : BitVec k) :
    (s.readValue (some v)).freeCtr = s.freeCtr := rfl
@[simp] theorem State.readValue_none_freeCtr (k : Nat) :
    (s.readValue (none : Option (BitVec k))).freeCtr = s.freeCtr + 1 := rfl
@[simp] theorem State.readValue_maxPix (k : Nat) (v : Option (BitVec k)) :
    (s.readValue v).maxPix = s.maxPix := by cases v <;> rfl

/-! `setBuffer` (R7, R11) -/

@[simp] theorem State.setBuffer_op (buf : Buffer) (m : Memory) :
    (s.setBuffer buf m).op = s.op := by cases buf <;> rfl
@[simp] theorem State.setBuffer_slot (buf : Buffer) (m : Memory) :
    (s.setBuffer buf m).slot = s.slot := by cases buf <;> rfl
@[simp] theorem State.setBuffer_w (buf : Buffer) (m : Memory) :
    (s.setBuffer buf m).w = s.w := by cases buf <;> rfl
@[simp] theorem State.setBuffer_h (buf : Buffer) (m : Memory) :
    (s.setBuffer buf m).h = s.h := by cases buf <;> rfl
@[simp] theorem State.setBuffer_flen (buf : Buffer) (m : Memory) :
    (s.setBuffer buf m).flen = s.flen := by cases buf <;> rfl
@[simp] theorem State.setBuffer_plen (buf : Buffer) (m : Memory) :
    (s.setBuffer buf m).plen = s.plen := by cases buf <;> rfl
@[simp] theorem State.setBuffer_status (buf : Buffer) (m : Memory) :
    (s.setBuffer buf m).status = s.status := by cases buf <;> rfl
@[simp] theorem State.setBuffer_err (buf : Buffer) (m : Memory) :
    (s.setBuffer buf m).err = s.err := by cases buf <;> rfl
@[simp] theorem State.setBuffer_full_full (m : Memory) : (s.setBuffer .full m).full = some m := rfl
@[simp] theorem State.setBuffer_packed_full (m : Memory) :
    (s.setBuffer .packed m).full = s.full := rfl
@[simp] theorem State.setBuffer_full_packed (m : Memory) :
    (s.setBuffer .full m).packed = s.packed := rfl
@[simp] theorem State.setBuffer_packed_packed (m : Memory) :
    (s.setBuffer .packed m).packed = some m := rfl
@[simp] theorem State.setBuffer_phase (buf : Buffer) (m : Memory) :
    (s.setBuffer buf m).phase = s.phase := by cases buf <;> rfl
@[simp] theorem State.setBuffer_cnt (buf : Buffer) (m : Memory) :
    (s.setBuffer buf m).cnt = s.cnt := by cases buf <;> rfl
@[simp] theorem State.setBuffer_hdr (buf : Buffer) (m : Memory) :
    (s.setBuffer buf m).hdr = s.hdr := by cases buf <;> rfl
@[simp] theorem State.setBuffer_exp (buf : Buffer) (m : Memory) :
    (s.setBuffer buf m).exp = s.exp := by cases buf <;> rfl
@[simp] theorem State.setBuffer_tx (buf : Buffer) (m : Memory) :
    (s.setBuffer buf m).tx = s.tx := by cases buf <;> rfl
@[simp] theorem State.setBuffer_txAns (buf : Buffer) (m : Memory) :
    (s.setBuffer buf m).txAns = s.txAns := by cases buf <;> rfl
@[simp] theorem State.setBuffer_rx (buf : Buffer) (m : Memory) :
    (s.setBuffer buf m).rx = s.rx := by cases buf <;> rfl
@[simp] theorem State.setBuffer_inputs (buf : Buffer) (m : Memory) :
    (s.setBuffer buf m).inputs = s.inputs := by cases buf <;> rfl
@[simp] theorem State.setBuffer_rdata (buf : Buffer) (m : Memory) :
    (s.setBuffer buf m).rdata = s.rdata := by cases buf <;> rfl
@[simp] theorem State.setBuffer_dpOut (buf : Buffer) (m : Memory) :
    (s.setBuffer buf m).dpOut = s.dpOut := by cases buf <;> rfl
@[simp] theorem State.setBuffer_freeCtr (buf : Buffer) (m : Memory) :
    (s.setBuffer buf m).freeCtr = s.freeCtr := by cases buf <;> rfl
@[simp] theorem State.setBuffer_maxPix (buf : Buffer) (m : Memory) :
    (s.setBuffer buf m).maxPix = s.maxPix := by cases buf <;> rfl

/-! `setLength` (R7, R11) -/

@[simp] theorem State.setLength_op (buf : Buffer) (n : Len) :
    (s.setLength buf n).op = s.op := by cases buf <;> rfl
@[simp] theorem State.setLength_slot (buf : Buffer) (n : Len) :
    (s.setLength buf n).slot = s.slot := by cases buf <;> rfl
@[simp] theorem State.setLength_w (buf : Buffer) (n : Len) :
    (s.setLength buf n).w = s.w := by cases buf <;> rfl
@[simp] theorem State.setLength_h (buf : Buffer) (n : Len) :
    (s.setLength buf n).h = s.h := by cases buf <;> rfl
@[simp] theorem State.setLength_full_flen (n : Len) : (s.setLength .full n).flen = some n := rfl
@[simp] theorem State.setLength_packed_flen (n : Len) : (s.setLength .packed n).flen = s.flen := rfl
@[simp] theorem State.setLength_full_plen (n : Len) : (s.setLength .full n).plen = s.plen := rfl
@[simp] theorem State.setLength_packed_plen (n : Len) : (s.setLength .packed n).plen = some n := rfl
@[simp] theorem State.setLength_status (buf : Buffer) (n : Len) :
    (s.setLength buf n).status = s.status := by cases buf <;> rfl
@[simp] theorem State.setLength_err (buf : Buffer) (n : Len) :
    (s.setLength buf n).err = s.err := by cases buf <;> rfl
@[simp] theorem State.setLength_full (buf : Buffer) (n : Len) :
    (s.setLength buf n).full = s.full := by cases buf <;> rfl
@[simp] theorem State.setLength_packed (buf : Buffer) (n : Len) :
    (s.setLength buf n).packed = s.packed := by cases buf <;> rfl
@[simp] theorem State.setLength_phase (buf : Buffer) (n : Len) :
    (s.setLength buf n).phase = s.phase := by cases buf <;> rfl
@[simp] theorem State.setLength_cnt (buf : Buffer) (n : Len) :
    (s.setLength buf n).cnt = s.cnt := by cases buf <;> rfl
@[simp] theorem State.setLength_hdr (buf : Buffer) (n : Len) :
    (s.setLength buf n).hdr = s.hdr := by cases buf <;> rfl
@[simp] theorem State.setLength_exp (buf : Buffer) (n : Len) :
    (s.setLength buf n).exp = s.exp := by cases buf <;> rfl
@[simp] theorem State.setLength_tx (buf : Buffer) (n : Len) :
    (s.setLength buf n).tx = s.tx := by cases buf <;> rfl
@[simp] theorem State.setLength_txAns (buf : Buffer) (n : Len) :
    (s.setLength buf n).txAns = s.txAns := by cases buf <;> rfl
@[simp] theorem State.setLength_rx (buf : Buffer) (n : Len) :
    (s.setLength buf n).rx = s.rx := by cases buf <;> rfl
@[simp] theorem State.setLength_inputs (buf : Buffer) (n : Len) :
    (s.setLength buf n).inputs = s.inputs := by cases buf <;> rfl
@[simp] theorem State.setLength_rdata (buf : Buffer) (n : Len) :
    (s.setLength buf n).rdata = s.rdata := by cases buf <;> rfl
@[simp] theorem State.setLength_dpOut (buf : Buffer) (n : Len) :
    (s.setLength buf n).dpOut = s.dpOut := by cases buf <;> rfl
@[simp] theorem State.setLength_freeCtr (buf : Buffer) (n : Len) :
    (s.setLength buf n).freeCtr = s.freeCtr := by cases buf <;> rfl
@[simp] theorem State.setLength_maxPix (buf : Buffer) (n : Len) :
    (s.setLength buf n).maxPix = s.maxPix := by cases buf <;> rfl

end

end Sys2Proof.Machine
end

