-- ==== Sys2Proof/Laws/Ops.lean ====
section
/-! SUPPORT. The shared operations, once: what the abort leaves (R167), what a codec run's length is
(R104), when a slot gives a command byte (R120, R121), when a dimension is zero. -/

namespace Sys2Proof.Machine

/-- The abort leaves what R167 says, and nothing else of the core changes. -/
theorem State.abort_aborted (o : HostOp) (c : ErrCode) (s : State) :
    State.Aborted o c s (s.abort o c) := by
  refine ⟨by simp, by simp, by simp, by simp [State.hiddenVoid], ?_, ?_, ?_⟩ <;> cases o <;>
    simp [State.OutputsVoid, State.InputsKept, State.OutsideKept]

/-- The same when the faulting step has used up an answer to `tx` (R123). -/
theorem State.abort_aborted_txAns (o : HostOp) (c : ErrCode) (s : State) (as : List TxAnswer) :
    State.Aborted o c s (State.abort o c { s with txAns := as }) :=
  have h := State.abort_aborted o c { s with txAns := as }
  ⟨h.1, h.2, h.3, h.4, h.5, h.6, h.7⟩

/-- The same when the faulting step has used up an answer to `rx` (R124). -/
theorem State.abort_aborted_rx (o : HostOp) (c : ErrCode) (s : State) (as : List RxAnswer) :
    State.Aborted o c s (State.abort o c { s with rx := as }) :=
  have h := State.abort_aborted o c { s with rx := as }
  ⟨h.1, h.2, h.3, h.4, h.5, h.6, h.7⟩

theorem getCommand_of_slot {k : Byte} (h : 1 ≤ k.toNat ∧ k.toNat ≤ 4) :
    getCommand k = some (commandByte getBase k) := if_neg (by omega)

theorem putCommand_of_slot {k : Byte} (h : 1 ≤ k.toNat ∧ k.toNat ≤ 4) :
    putCommand k = some (commandByte putBase k) := if_neg (by omega)

theorem zeroDim_iff (w h : Dim) : zeroDim w h = true ↔ w.toNat = 0 ∨ h.toNat = 0 := by
  simp [zeroDim, ← BitVec.toNat_inj]

/-- Every length of R67 (d) fits a length register (R16). -/
theorem fullLength_lt (w h : Dim) : fullLength w h < 2 ^ 34 := by
  have hw := w.isLt
  have hh := h.isLt
  have : w.toNat * h.toNat ≤ 65535 * 65535 := Nat.mul_le_mul (by omega) (by omega)
  simp only [fullLength, pixels]
  omega

theorem packedLength_lt (w h : Dim) : packedLength w h < 2 ^ 34 := by
  have := fullLength_lt w h
  simp only [fullLength, packedLength] at *
  omega

end Sys2Proof.Machine
end

