-- ==== Sys2Proof/Laws/PerInstr.lean ====
section
/-! SUPPORT. Statements about every instruction, one lemma a constructor: the encoding has the width of
its row's format (R60, R68), and it is a word exactly when the row has an encoding. -/

namespace Sys2Proof.Laws

/-- The encoding of `i` fills the whole bytes of its format's width, and `i` is well formed exactly when
it has an encoding (R60, R68). -/
def EncodingWidth.Statement (i : Instr) : Prop :=
  (Sys2Proof.encode i).length = (i.format.width + 7) / 8 ∧
    (i.wf = true ↔ Sys2Proof.encode i ≠ [])

theorem EncodingWidth.get1 : EncodingWidth.Statement .get1 := ⟨rfl, by decide⟩
theorem EncodingWidth.get2 : EncodingWidth.Statement .get2 := ⟨rfl, by decide⟩
theorem EncodingWidth.get3 : EncodingWidth.Statement .get3 := ⟨rfl, by decide⟩
theorem EncodingWidth.get4 : EncodingWidth.Statement .get4 := ⟨rfl, by decide⟩
theorem EncodingWidth.put1 : EncodingWidth.Statement .put1 := ⟨rfl, by decide⟩
theorem EncodingWidth.put2 : EncodingWidth.Statement .put2 := ⟨rfl, by decide⟩
theorem EncodingWidth.put3 : EncodingWidth.Statement .put3 := ⟨rfl, by decide⟩
theorem EncodingWidth.put4 : EncodingWidth.Statement .put4 := ⟨rfl, by decide⟩
theorem EncodingWidth.getack : EncodingWidth.Statement .getack := ⟨rfl, by decide⟩
theorem EncodingWidth.putack : EncodingWidth.Statement .putack := ⟨rfl, by decide⟩
theorem EncodingWidth.get : EncodingWidth.Statement .get := ⟨rfl, by decide⟩
theorem EncodingWidth.put : EncodingWidth.Statement .put := ⟨rfl, by decide⟩
theorem EncodingWidth.decode : EncodingWidth.Statement .decode := ⟨rfl, by decide⟩
theorem EncodingWidth.encode : EncodingWidth.Statement .encode := ⟨rfl, by decide⟩
theorem EncodingWidth.ycbcr2rgb (y cb cr : Byte) :
    EncodingWidth.Statement (.ycbcr2rgb y cb cr) := by
  simp [Statement, Sys2Proof.encode, Instr.wf, Instr.format, Format.width]
theorem EncodingWidth.rgb2ycbcr (r g b : Byte) :
    EncodingWidth.Statement (.rgb2ycbcr r g b) := by
  simp [Statement, Sys2Proof.encode, Instr.wf, Instr.format, Format.width]
theorem EncodingWidth.avg2 (c1 c2 : Byte) :
    EncodingWidth.Statement (.avg2 c1 c2) := by
  simp [Statement, Sys2Proof.encode, Instr.wf, Instr.format, Format.width]

end Sys2Proof.Laws
end

