-- ==== Sys2Proof/Laws/Transport.lean ====
section
/-! SUPPORT. What `tx` and `rx` can do, once: with no answer the state waits, with a good answer the
continuation runs, with any other the operation aborts (R122 to R124, R200). -/

namespace Sys2Proof.Machine

variable {o : HostOp} {b : Byte} {s t : State}

/-! ### By the answer -/

theorem withTx_silent {k : State → Result} (h : s.txAns = []) : withTx o b s k = .next s := by
  simp [withTx, h]

theorem withTx_ok {k : State → Result} {as : List TxAnswer} (h : s.txAns = .txOk :: as) :
    withTx o b s k = k (s.sent b as) := by
  simp [withTx, h]

theorem withTx_timeout {k : State → Result} {as : List TxAnswer} (h : s.txAns = .txTimeout :: as) :
    withTx o b s k = raise o .transportTimeout { s with txAns := as } := by
  simp [withTx, h]

theorem withTx_error {k : State → Result} {as : List TxAnswer} (h : s.txAns = .txError :: as) :
    withTx o b s k = raise o .transportError { s with txAns := as } := by
  simp [withTx, h]

theorem withRx_silent {k : Byte → State → Result} (h : s.rx = []) : withRx o s k = .next s := by
  simp [withRx, h]

theorem withRx_byte {k : Byte → State → Result} {as : List RxAnswer}
    (h : s.rx = .rxByte b :: as) : withRx o s k = k b { s with rx := as } := by
  simp [withRx, h]

theorem withRx_eos {k : Byte → State → Result} {as : List RxAnswer} (h : s.rx = .rxEos :: as) :
    withRx o s k = raise o .protocolViolation { s with rx := as } := by
  simp [withRx, h]

theorem withRx_timeout {k : Byte → State → Result} {as : List RxAnswer}
    (h : s.rx = .rxTimeout :: as) :
    withRx o s k = raise o .transportTimeout { s with rx := as } := by
  simp [withRx, h]

theorem withRx_error {k : Byte → State → Result} {as : List RxAnswer}
    (h : s.rx = .rxError :: as) :
    withRx o s k = raise o .transportError { s with rx := as } := by
  simp [withRx, h]

/-! ### Everything they can do -/

/-- Every outcome of `tx`. -/
theorem withTx_cases {k : State → Result} {r : Result} (h : withTx o b s k = r) :
    (s.txAns = [] ∧ r = .next s) ∨
      (∃ as, s.txAns = .txOk :: as ∧ r = k (s.sent b as)) ∨
      ∃ a as c, s.txAns = a :: as ∧
        (a = .txTimeout ∧ c = .transportTimeout ∨ a = .txError ∧ c = .transportError) ∧
        r = raise o c { s with txAns := as } := by
  subst h
  rcases hs : s.txAns with _ | ⟨a, as⟩
  · exact .inl ⟨rfl, withTx_silent hs⟩
  · cases a with
    | txOk => exact .inr (.inl ⟨as, rfl, withTx_ok hs⟩)
    | txTimeout => exact .inr (.inr ⟨_, as, _, rfl, .inl ⟨rfl, rfl⟩, withTx_timeout hs⟩)
    | txError => exact .inr (.inr ⟨_, as, _, rfl, .inr ⟨rfl, rfl⟩, withTx_error hs⟩)

/-- Every outcome of `rx`. -/
theorem withRx_cases {k : Byte → State → Result} {r : Result} (h : withRx o s k = r) :
    (s.rx = [] ∧ r = .next s) ∨
      (∃ b as, s.rx = .rxByte b :: as ∧ r = k b { s with rx := as }) ∨
      ∃ a as c, s.rx = a :: as ∧
        (a = .rxEos ∧ c = .protocolViolation ∨ a = .rxTimeout ∧ c = .transportTimeout ∨
          a = .rxError ∧ c = .transportError) ∧
        r = raise o c { s with rx := as } := by
  subst h
  rcases hs : s.rx with _ | ⟨a, as⟩
  · exact .inl ⟨rfl, withRx_silent hs⟩
  · cases a with
    | rxByte b => exact .inr (.inl ⟨b, as, rfl, withRx_byte hs⟩)
    | rxEos => exact .inr (.inr ⟨_, as, _, rfl, .inl ⟨rfl, rfl⟩, withRx_eos hs⟩)
    | rxTimeout => exact .inr (.inr ⟨_, as, _, rfl, .inr (.inl ⟨rfl, rfl⟩), withRx_timeout hs⟩)
    | rxError => exact .inr (.inr ⟨_, as, _, rfl, .inr (.inr ⟨rfl, rfl⟩), withRx_error hs⟩)

/-- Raising a fault answers the aborted state (R167). -/
theorem raise_next {c : ErrCode} (h : raise o c s = .next t) : t = s.abort o c := by
  simpa [raise, eq_comm] using h

end Sys2Proof.Machine
end

