-- ==== Sys2Proof/Laws/Steps.lean ====
section
/-! SUPPORT. What START and each phase's step can do, once: if it answers next t, one of the named
cases holds. And what one step of the machine is, by its fetch. -/

namespace Sys2Proof.Machine

variable {s t : State} {o : HostOp}

/-! ### A phase's transport step that does not go on -/

/-- `t` is `s` waiting for an answer to `tx`, or aborted by a failed `tx` (R123, R200). -/
def TxStops (o : HostOp) (s t : State) : Prop :=
  (s.txAns = [] ∧ t = s) ∨
    ∃ a as c, s.txAns = a :: as ∧
      (a = .txTimeout ∧ c = .transportTimeout ∨ a = .txError ∧ c = .transportError) ∧
      t = State.abort o c { s with txAns := as }

/-- `t` is `s` waiting for an answer to `rx`, or aborted by a failed `rx` (R124, R200). -/
def RxStops (o : HostOp) (s t : State) : Prop :=
  (s.rx = [] ∧ t = s) ∨
    ∃ a as c, s.rx = a :: as ∧
      (a = .rxEos ∧ c = .protocolViolation ∨ a = .rxTimeout ∧ c = .transportTimeout ∨
        a = .rxError ∧ c = .transportError) ∧
      t = State.abort o c { s with rx := as }

theorem withTx_next {b : Byte} {k : State → Result} (h : withTx o b s k = .next t) :
    TxStops o s t ∨ ∃ as, s.txAns = .txOk :: as ∧ k (s.sent b as) = .next t := by
  rcases withTx_cases h with ⟨h1, h2⟩ | ⟨as, h1, h2⟩ | ⟨a, as, c, h1, h2, h3⟩
  · exact .inl (.inl ⟨h1, by simpa using h2⟩)
  · exact .inr ⟨as, h1, h2.symm⟩
  · exact .inl (.inr ⟨a, as, c, h1, h2, raise_next h3.symm⟩)

theorem withRx_next {k : Byte → State → Result} (h : withRx o s k = .next t) :
    RxStops o s t ∨ ∃ b as, s.rx = .rxByte b :: as ∧ k b { s with rx := as } = .next t := by
  rcases withRx_cases h with ⟨h1, h2⟩ | ⟨b, as, h1, h2⟩ | ⟨a, as, c, h1, h2, h3⟩
  · exact .inl (.inl ⟨h1, by simpa using h2⟩)
  · exact .inr ⟨b, as, h1, h2.symm⟩
  · exact .inl (.inr ⟨a, as, c, h1, h2, raise_next h3.symm⟩)

/-! ### START -/

/-- START answers next only as R149 says, from a state that is not BUSY with its inputs there. -/
theorem start_next (h : start o s = .next t) :
    s.status ≠ .busy ∧ s.inputsPresent o = true ∧ s.inputTooLarge o = false ∧ t = s.begin o := by
  simp only [start] at h
  split at h
  · cases h
  · split at h
    · cases h
    · split at h
      · cases h
      · simp_all

/-! ### Command bytes and acknowledgements -/

theorem stepGCmd_next (h : stepGCmd s = .next t) : ∃ k, s.slot = some k ∧
    ((getCommand k = none ∧ t = s.abort .get .invalidSlot) ∨
      ∃ c, getCommand k = some c ∧ (TxStops .get s t ∨
        ∃ as, s.txAns = .txOk :: as ∧ t = { s.sent c as with phase := .gAck })) := by
  simp only [stepGCmd] at h
  split at h
  · cases h
  · rename_i k hk
    refine ⟨k, hk, ?_⟩
    split at h
    · exact .inl ⟨‹_›, raise_next h⟩
    · refine .inr ⟨_, ‹_›, ?_⟩
      rcases withTx_next h with h | ⟨as, h1, h2⟩
      · exact .inl h
      · exact .inr ⟨as, h1, by simpa [eq_comm] using h2⟩

theorem stepPCmd_next (h : stepPCmd s = .next t) : ∃ k, s.slot = some k ∧
    ((putCommand k = none ∧ t = s.abort .put .invalidSlot) ∨
      ∃ c, putCommand k = some c ∧ (TxStops .put s t ∨
        ∃ as, s.txAns = .txOk :: as ∧ t = { s.sent c as with phase := .pAck1 })) := by
  simp only [stepPCmd] at h
  split at h
  · cases h
  · rename_i k hk
    refine ⟨k, hk, ?_⟩
    split at h
    · exact .inl ⟨‹_›, raise_next h⟩
    · refine .inr ⟨_, ‹_›, ?_⟩
      rcases withTx_next h with h | ⟨as, h1, h2⟩
      · exact .inl h
      · exact .inr ⟨as, h1, by simpa [eq_comm] using h2⟩

theorem stepGAck_next (h : stepGAck s = .next t) : RxStops .get s t ∨
    ∃ b as, s.rx = .rxByte b :: as ∧
      ((b = getAckByte ∧ t = { s with rx := as, phase := .gHdr, cnt := some 0 }) ∨
        (b ≠ getAckByte ∧ t = State.abort .get .protocolViolation { s with rx := as })) := by
  rcases withRx_next h with h | ⟨b, as, h1, h2⟩
  · exact .inl h
  · refine .inr ⟨b, as, h1, ?_⟩
    split at h2
    · exact .inl ⟨‹_›, by simpa [eq_comm] using h2⟩
    · exact .inr ⟨‹_›, raise_next h2⟩

theorem stepPAck1_next (h : stepPAck1 s = .next t) : ∃ w hh, s.w = some w ∧ s.h = some hh ∧
    (RxStops .put s t ∨ ∃ b as, s.rx = .rxByte b :: as ∧
      ((b = putAckByte ∧ t = { s with
          rx := as, phase := .pHdr, cnt := some 0, hdr := Hdr.ofDims w hh
          exp := some (BitVec.ofNat 34 (packedLength w hh)) }) ∨
        (b ≠ putAckByte ∧ t = State.abort .put .protocolViolation { s with rx := as }))) := by
  simp only [stepPAck1] at h
  split at h
  · rename_i w hh hw hhh
    refine ⟨w, hh, hw, hhh, ?_⟩
    rcases withRx_next h with h | ⟨b, as, h1, h2⟩
    · exact .inl h
    · refine .inr ⟨b, as, h1, ?_⟩
      split at h2
      · exact .inl ⟨‹_›, by simpa [eq_comm] using h2⟩
      · exact .inr ⟨‹_›, raise_next h2⟩
  · cases h

theorem stepPAck2_next (h : stepPAck2 s = .next t) : RxStops .put s t ∨
    ∃ b as, s.rx = .rxByte b :: as ∧
      ((b = putAckByte ∧ t = (State.voidFor .put { s with rx := as }).finish) ∨
        (b ≠ putAckByte ∧ t = State.abort .put .protocolViolation { s with rx := as })) := by
  rcases withRx_next h with h | ⟨b, as, h1, h2⟩
  · exact .inl h
  · refine .inr ⟨b, as, h1, ?_⟩
    split at h2
    · exact .inl ⟨‹_›, by simpa [eq_comm] using h2⟩
    · exact .inr ⟨‹_›, raise_next h2⟩

/-! ### Headers -/

theorem headerReceived_next (h : headerReceived s = .next t) :
    ∃ w hh, s.hdr.dims = some (w, hh) ∧
      ((zeroDim w hh = true ∧ t = s.abort .get .formatError) ∨
        (zeroDim w hh = false ∧ pixels w hh ≤ s.maxPix ∧ t = { s with
          phase := .gPay, cnt := some 0
          exp := some (BitVec.ofNat 34 (packedLength w hh)), packed := some [] })) := by
  simp only [headerReceived] at h
  split at h
  · cases h
  · rename_i w hh hd
    refine ⟨w, hh, hd, ?_⟩
    split at h
    · exact .inl ⟨‹_›, raise_next h⟩
    · split at h
      · cases h
      · rename_i h1 h2
        exact .inr ⟨by simpa using h1, by omega, by simpa [eq_comm] using h⟩

theorem stepGHdr_next (h : stepGHdr s = .next t) : ∃ c : Len, s.cnt = some c ∧
    (RxStops .get s t ∨ ∃ b as, s.rx = .rxByte b :: as ∧
      ((c + 1 = 4 ∧ headerReceived
          { s with rx := as, hdr := s.hdr.set c.toNat b, cnt := some 4 } = .next t) ∨
        (c + 1 ≠ 4 ∧ t = { s with
          rx := as, hdr := s.hdr.set c.toNat b, cnt := some (c + 1) }))) := by
  simp only [stepGHdr] at h
  split at h
  · cases h
  · rename_i c hc
    refine ⟨c, hc, ?_⟩
    rcases withRx_next h with h | ⟨b, as, h1, h2⟩
    · exact .inl h
    · refine .inr ⟨b, as, h1, ?_⟩
      split at h2
      · exact .inl ⟨‹_›, h2⟩
      · exact .inr ⟨‹_›, by simpa [eq_comm] using h2⟩

theorem stepPHdr_next (h : stepPHdr s = .next t) : ∃ (c : Len) (b : Byte), s.cnt = some c ∧
    s.hdr.get c.toNat = some b ∧
    (TxStops .put s t ∨ ∃ as, s.txAns = .txOk :: as ∧
      ((c + 1 = 4 ∧ t = { s.sent b as with phase := .pPay, cnt := some 0 }) ∨
        (c + 1 ≠ 4 ∧ t = { s.sent b as with cnt := some (c + 1) }))) := by
  simp only [stepPHdr] at h
  split at h
  · cases h
  · rename_i c hc
    split at h
    · cases h
    · rename_i b hb
      refine ⟨c, b, hc, hb, ?_⟩
      rcases withTx_next h with h | ⟨as, h1, h2⟩
      · exact .inl h
      · refine .inr ⟨as, h1, ?_⟩
        split at h2
        · exact .inl ⟨‹_›, by simpa [eq_comm] using h2⟩
        · exact .inr ⟨‹_›, by simpa [eq_comm] using h2⟩

/-! ### Payloads -/

theorem stepGPay_next (h : stepGPay s = .next t) : ∃ (c e : Len) (m : Memory),
    s.cnt = some c ∧ s.exp = some e ∧ s.packed = some m ∧
    (RxStops .get s t ∨ ∃ b as, s.rx = .rxByte b :: as ∧ t = { s with
      rx := as, packed := some (Memory.write m c.toNat b), cnt := some (c + 1)
      phase := if c + 1 = e then .gDec else s.phase }) := by
  simp only [stepGPay] at h
  split at h
  · rename_i c e m hc he hm
    refine ⟨c, e, m, hc, he, hm, ?_⟩
    rcases withRx_next h with h | ⟨b, as, h1, h2⟩
    · exact .inl h
    · refine .inr ⟨b, as, h1, ?_⟩
      split at h2 <;> cases h2 <;> simp only [if_true, if_false, *]
  · cases h

theorem stepPPay_next (h : stepPPay s = .next t) : ∃ (c e : Len) (m : Memory) (b : Byte),
    s.cnt = some c ∧ s.exp = some e ∧ s.packed = some m ∧ Memory.read m c.toNat = some b ∧
    (TxStops .put s t ∨ ∃ as, s.txAns = .txOk :: as ∧ t = { s.sent b as with
      cnt := some (c + 1), phase := if c + 1 = e then .pAck2 else s.phase }) := by
  simp only [stepPPay] at h
  split at h
  · rename_i c e m hc he hm
    split at h
    · cases h
    · rename_i b hb
      refine ⟨c, e, m, b, hc, he, hm, hb, ?_⟩
      rcases withTx_next h with h | ⟨as, h1, h2⟩
      · exact .inl h
      · refine .inr ⟨as, h1, ?_⟩
        split at h2 <;> cases h2 <;> simp only [if_true, if_false, *]
        rfl
  · cases h

/-! ### Compute phases -/

theorem stepGDec_next (h : stepGDec s = .next t) : ∃ w hh p, s.hdr.dims = some (w, hh) ∧
    contentOf s.cnt s.packed = some p ∧
    (((p.length ≠ packedLength w hh ∨ decodeBuf p = none) ∧ t = s.abort .get .formatError) ∨
      ∃ f, p.length = packedLength w hh ∧ decodeBuf p = some f ∧ t = s.gotFrame w hh f) := by
  simp only [stepGDec] at h
  split at h
  · rename_i w hh p hd hp
    refine ⟨w, hh, p, hd, hp, ?_⟩
    split at h
    · exact .inl ⟨.inl ‹_›, raise_next h⟩
    · rename_i hl
      split at h
      · exact .inl ⟨.inr ‹_›, raise_next h⟩
      · exact .inr ⟨_, by simpa using hl, ‹_›, by simpa [eq_comm] using h⟩
  · cases h

theorem stepPPrep_next (h : stepPPrep s = .next t) : ∃ w hh n f, s.w = some w ∧ s.h = some hh ∧
    s.flen = some n ∧ contentOf s.flen s.full = some f ∧
    (((zeroDim w hh = true ∨ n.toNat ≠ fullLength w hh ∨ encodeBuf f = none ∨
        ∃ p, encodeBuf f = some p ∧ p.length ≠ packedLength w hh) ∧
        t = s.abort .put .formatError) ∨
      ∃ p, zeroDim w hh = false ∧ n.toNat = fullLength w hh ∧ encodeBuf f = some p ∧
        p.length = packedLength w hh ∧
        t = { s with packed := some (Memory.ofBytes p), phase := .pCmd }) := by
  simp only [stepPPrep] at h
  split at h
  · rename_i w hh n f hw hh' hn hf
    refine ⟨w, hh, n, f, hw, hh', hn, hf, ?_⟩
    split at h
    · exact .inl ⟨.inl ‹_›, raise_next h⟩
    · rename_i hz
      split at h
      · exact .inl ⟨.inr (.inl ‹_›), raise_next h⟩
      · rename_i hl
        split at h
        · exact .inl ⟨.inr (.inr (.inl ‹_›)), raise_next h⟩
        · rename_i p hp
          split at h
          · exact .inl ⟨.inr (.inr (.inr ⟨p, hp, ‹_›⟩)), raise_next h⟩
          · rename_i hpl
            exact .inr ⟨p, by simpa using hz, by simpa using hl, hp, by simpa using hpl,
              by simpa [eq_comm] using h⟩
  · cases h

theorem stepCDec_next (h : stepCDec s = .next t) : ∃ n p, s.plen = some n ∧
    contentOf s.plen s.packed = some p ∧
    ((decodeBuf p = none ∧ t = s.abort .decode .formatError) ∨
      ∃ f, decodeBuf p = some f ∧ t = { s.finish with
        full := some (Memory.ofBytes f), flen := some (BitVec.ofNat 34 (n.toNat / 4 * 6)) }) := by
  simp only [stepCDec] at h
  split at h
  · rename_i n p hn hp
    refine ⟨n, p, hn, hp, ?_⟩
    split at h
    · exact .inl ⟨‹_›, raise_next h⟩
    · exact .inr ⟨_, ‹_›, by simpa [eq_comm] using h⟩
  · cases h

theorem stepCEnc_next (h : stepCEnc s = .next t) : ∃ n f, s.flen = some n ∧
    contentOf s.flen s.full = some f ∧
    ((encodeBuf f = none ∧ t = s.abort .encode .formatError) ∨
      ∃ p, encodeBuf f = some p ∧ t = { s.finish with
        packed := some (Memory.ofBytes p), plen := some (BitVec.ofNat 34 (n.toNat / 6 * 4)) }) := by
  simp only [stepCEnc] at h
  split at h
  · rename_i n f hn hf
    refine ⟨n, f, hn, hf, ?_⟩
    split at h
    · exact .inl ⟨‹_›, raise_next h⟩
    · exact .inr ⟨_, ‹_›, by simpa [eq_comm] using h⟩
  · cases h

/-! ### The host port -/

theorem hostWriteReg_next {n : RegNumber} {v : Len} (h : hostWriteReg n v s = .next t) :
    n.toNat ≤ 8 ∧ s.status ≠ .busy ∧
      (t = { s with op := some (v.setWidth 2) } ∨ t = { s with slot := some (v.setWidth 8) } ∨
        t = { s with w := some (v.setWidth 16) } ∨ t = { s with h := some (v.setWidth 16) } ∨
        t = { s with flen := some v } ∨ t = { s with plen := some v } ∨ t = s) := by
  simp only [hostWriteReg] at h
  repeat' split at h
  all_goals first | cases h; done | (cases h; refine ⟨by omega, ‹_›, by simp⟩)

/-- Every outcome of a host read of a register: the register's value, or the free value where it holds
none (R11, R27). -/
theorem hostReadReg_cases {n : RegNumber} (h : hostReadReg n s = .next t) :
    n = 0 ∧ t = s.readValue (some (0 : BitVec 1)) ∨ n = 1 ∧ t = s.readValue s.op ∨
      n = 2 ∧ t = s.readValue s.slot ∨ n = 3 ∧ t = s.readValue s.w ∨ n = 4 ∧ t = s.readValue s.h ∨
      n = 5 ∧ t = s.readValue s.flen ∨ n = 6 ∧ t = s.readValue s.plen ∨
      n = 7 ∧ t = s.readValue (some s.status.code) ∨ n = 8 ∧ t = s.readValue (some s.err.code) := by
  simp only [hostReadReg] at h
  repeat' split at h
  all_goals first
    | (cases h; done)
    | (cases h; simp_all)

theorem hostReadReg_next {n : RegNumber} (h : hostReadReg n s = .next t) :
    n.toNat ≤ 8 ∧ ∃ (k : Nat) (v : Option (BitVec k)), t = s.readValue v := by
  simp only [hostReadReg] at h
  repeat' split at h
  all_goals first
    | (cases h; done)
    | (cases h; refine ⟨by subst_vars; decide, ?_⟩; exact ⟨_, _, rfl⟩)

theorem hostWriteByte_next {buf : Buffer} {i : Len} {b : Byte}
    (h : hostWriteByte buf i b s = .next t) : s.status ≠ .busy ∧
      t = s.setBuffer buf (Memory.write ((s.bufferOf buf).getD []) i.toNat b) := by
  simp only [hostWriteByte] at h
  split at h
  · cases h
  · exact ⟨‹_›, by simpa [eq_comm] using h⟩

theorem hostLoad_next {buf : Buffer} {bs : List Byte} (h : hostLoad buf bs s = .next t) :
    s.status ≠ .busy ∧ bs.length < 2 ^ 34 ∧
      t = (s.setBuffer buf (Memory.ofBytes bs)).setLength buf (BitVec.ofNat 34 bs.length) := by
  simp only [hostLoad] at h
  split at h
  · cases h
  · split at h
    · cases h
    · exact ⟨‹_›, by omega, by simpa [eq_comm] using h⟩

/-! ### One step -/

theorem step_run {i : Instr} (h : fetch s = .run i t) : step s = exec i t := by
  simp [step, h, Turn.outcome]

theorem step_settled {r : Result} (h : fetch s = .settled r) : step s = r := by
  simp [step, h, Turn.outcome]

theorem getCommand_none {k : Byte} (h : k.toNat < 1 ∨ 4 < k.toNat) : getCommand k = none :=
  if_pos h

theorem putCommand_none {k : Byte} (h : k.toNat < 1 ∨ 4 < k.toNat) : putCommand k = none :=
  if_pos h

/-- A slot is 1, 2, 3 or 4, or no slot. -/
theorem slot_cases (k : Byte) :
    (k.toNat < 1 ∨ 4 < k.toNat) ∨ k = 1 ∨ k = 2 ∨ k = 3 ∨ k = 4 := by
  simp only [← BitVec.toNat_inj]
  simp
  omega

/-- The command instruction that SLOT selects does what G_CMD's step does. -/
theorem exec_getCommandInstr (hp : s.phase = .gCmd) :
    exec (commandInstr .get (s.slot.bind getCommand)) s = stepGCmd s := by
  rcases hk : s.slot with _ | k
  · simp [commandInstr, exec, execGet, hp]
  · rcases slot_cases k with hv | rfl | rfl | rfl | rfl
    · simp [Option.bind, getCommand_none hv, commandInstr, exec, execGet, hp]
    all_goals
      simp only [stepGCmd, hk]
      exact if_pos hp

/-- The command instruction that SLOT selects does what P_CMD's step does. -/
theorem exec_putCommandInstr (hp : s.phase = .pCmd) :
    exec (commandInstr .put (s.slot.bind putCommand)) s = stepPCmd s := by
  rcases hk : s.slot with _ | k
  · simp [commandInstr, exec, execPut, hp]
  · rcases slot_cases k with hv | rfl | rfl | rfl | rfl
    · simp [Option.bind, putCommand_none hv, commandInstr, exec, execPut, hp]
    all_goals
      simp only [stepPCmd, hk]
      exact if_pos hp

/-- What the sequencer's move is, by PHASE (R21): a step of the machine in which the host does nothing is
this one. -/
theorem outcome_fetchSequencer (s : State) : (fetchSequencer s).outcome =
    match s.phase with
    | .idle => .next s
    | .gCmd => stepGCmd s
    | .gAck => stepGAck s
    | .gHdr => stepGHdr s
    | .gPay => stepGPay s
    | .gDec => stepGDec s
    | .pPrep => stepPPrep s
    | .pCmd => stepPCmd s
    | .pAck1 => stepPAck1 s
    | .pHdr => stepPHdr s
    | .pPay => stepPPay s
    | .pAck2 => stepPAck2 s
    | .cDec => stepCDec s
    | .cEnc => stepCEnc s := by
  cases hp : s.phase <;> simp only [fetchSequencer, State.current, hp, Turn.outcome]
  case gCmd => exact exec_getCommandInstr hp
  case pCmd => exact exec_putCommandInstr hp
  all_goals simp [exec, execGet, execPut, execDecode, execEncode, execGetack, execPutack, hp]

theorem step_of_no_input (h : s.inputs = []) : step s = (fetchSequencer s).outcome := by
  simp [step, fetch, h]

theorem step_of_input {i : Input} {rest : List Input} (h : s.inputs = i :: rest) :
    step s = (fetchInput i { s with inputs := rest }).outcome := by
  simp [step, fetch, h]

/-- START through the host port: what a write of CTRL with bit 0 set does (R25, R149, R195, R196). -/
theorem outcome_fetchStart (s : State) : (fetchStart s).outcome =
    if s.status = .busy then .refused .hostWhileBusy
    else
      match s.op with
      | none => .refused .absentInput
      | some o => exec (decodeOpreq o) s := by
  simp only [fetchStart]
  split
  · rfl
  · cases s.op <;> rfl

end Sys2Proof.Machine
end

