-- ==== Sys2Proof/Tests/Slice0.lean ====
section
/-! SUPPORT. The model's own tests. Expected bytes are those of spec/95_test_vectors.md (S1 to S10, V1 to
V9, P1 to P10, X1 to X7) or of the rule named. The last part shows, for each statement with hypotheses, a
concrete state that meets them, at the boundary values of its clauses. -/

namespace Sys2Proof.Tests

open Sys2Proof Sys2Proof.Machine

/-! ### Well-formedness: a datapath function has no encoding (R68) -/

theorem test_wf_refuses_ycbcr2rgb : (Instr.ycbcr2rgb 16 128 128).wf = false := by decide
theorem test_wf_refuses_rgb2ycbcr : (Instr.rgb2ycbcr 0 0 0).wf = false := by decide
theorem test_wf_refuses_avg2 : (Instr.avg2 127 128).wf = false := by decide
theorem test_wf_admits_encoded :
    ∀ i ∈ [Instr.get1, .get2, .get3, .get4, .put1, .put2, .put3, .put4, .getack, .putack, .get, .put,
      .decode, .encode], i.wf = true := by decide

/-! ### Decoding: every encoding of R61, R62 and R68, written bit by bit -/

/-- Whether bytes decode to exactly this instruction. -/
def decodesTo (bs : List Byte) (i : Instr) : Bool :=
  match decode bs with
  | .ok (j, []) => j == i
  | .ok (_, _ :: _) => false
  | .error _ => false

/-- Whether bytes are rejected as a byte without a meaning. -/
def rejects (b : Byte) : Bool :=
  match decode [b] with
  | .ok _ => false
  | .error e => e == .unassigned b

theorem test_decode_get1 : decodesTo [0b00100001] .get1 = true := by decide
theorem test_decode_get2 : decodesTo [0b00110001] .get2 = true := by decide
theorem test_decode_get3 : decodesTo [0b01000001] .get3 = true := by decide
theorem test_decode_get4 : decodesTo [0b01010001] .get4 = true := by decide
theorem test_decode_put1 : decodesTo [0b00100100] .put1 = true := by decide
theorem test_decode_put2 : decodesTo [0b00110100] .put2 = true := by decide
theorem test_decode_put3 : decodesTo [0b01000100] .put3 = true := by decide
theorem test_decode_put4 : decodesTo [0b01010100] .put4 = true := by decide
theorem test_decode_getack : decodesTo [0b00010000] .getack = true := by decide
theorem test_decode_putack : decodesTo [0b10101100] .putack = true := by decide
theorem test_decode_get : decodesTo [0b00000000] .get = true := by decide
theorem test_decode_put : decodesTo [0b00000001] .put = true := by decide
theorem test_decode_decode : decodesTo [0b00000010] .decode = true := by decide
theorem test_decode_encode : decodesTo [0b00000011] .encode = true := by decide
theorem test_decode_rejects :
    ∀ b ∈ [(0x04 : Byte), 0x11, 0x14, 0x61, 0x64, 0x22, 0x99, 0xFF], rejects b = true := by decide
/-- A datapath row of the table has no bits, so no word stands for it. -/
theorem test_table_word :
    decodeTableWord 8 0x31 = some .get2 ∧ decodeTableWord 2 3 = some .encode ∧
      decodeTableWord 0 0 = none ∧ decodeTableWord 16 0x3131 = none := by decide

/-! ### The datapath: V1 to V6, S10 -/

theorem test_ycbcr2rgb_truncates : ycbcr2rgb 235 128 128 = (254, 254, 254) := by decide
theorem test_ycbcr2rgb_clamps : ycbcr2rgb 16 255 255 = (227, 0, 255) := by decide
theorem test_rgb2ycbcr_red : rgb2ycbcr 255 0 0 = (62, 102, 239) := by decide
theorem test_rgb2ycbcr_yellow : rgb2ycbcr 255 255 0 = (219, 15, 138) := by decide
theorem test_avg2 : avg2 127 128 = 127 ∧ avg2 255 254 = 254 := by decide
theorem test_clampDiv :
    clampDiv (-1) = 0 ∧ clampDiv 999 = 0 ∧ clampDiv 1000 = 1 ∧ clampDiv 254999 = 254 ∧
      clampDiv 255000 = 255 ∧ clampDiv 546420 = 255 := by decide
/-- V5: the second pixel uses the pair's one chroma. -/
theorem test_decodeBuf_replicates :
    decodeBuf [0x51, 0x5A, 0x91, 0xF0] = some [0xFF, 0x18, 0x00, 0xFF, 0x62, 0x45] := by decide
theorem test_decodeBuf_length : decodeBuf [0x10, 0x80, 0x10] = none := by decide
/-- V6: red and blue, chroma averaged. -/
theorem test_encodeBuf_averages :
    encodeBuf [0xFF, 0, 0, 0, 0, 0xFF] = some [0x3E, 0xAA, 0x1F, 0xB2] := by decide
theorem test_encodeBuf_length : encodeBuf [0xFF, 0xFF, 0xFF, 0xFF] = none := by decide

/-! ### States -/

/-- The state after an outcome, if it goes on. -/
def after (r : Result) : Option State :=
  match r with
  | .next t => some t
  | .fault _ => none
  | .refused _ => none

/-- Whether an outcome is this refusal. -/
def refusedWith (r : Result) (x : Refusal) : Bool :=
  match r with
  | .next _ => false
  | .fault _ => false
  | .refused y => y == x

/-- Whether an outcome is this fault. -/
def faultedWith (r : Result) (x : Fault) : Bool :=
  match r with
  | .next _ => false
  | .fault y => y == x
  | .refused _ => false

def blackPacked : List Byte := [0x10, 0x80, 0x10, 0x80]
def whiteFull : List Byte := [0xFF, 0xFF, 0xFF, 0xFF, 0xFF, 0xFF]
def whitePacked : List Byte := [0xEB, 0x7F, 0xEB, 0x80]

/-- Slot 1 requested, nothing else. -/
def ready : State := { State.reset with slot := some 1 }

/-- The host's next move. -/
def withMove (i : Input) (s : State) : State := { s with inputs := [i] }

/-- START pending. -/
def starting (o : OpCode) (s : State) : State := { s with op := some o, inputs := [.writeReg 0 1] }

/-- Running, in a phase. -/
def inPhase (p : Phase) (s : State) : State := { s with status := .busy, phase := p }

def gCmd : State := inPhase .gCmd ready
def gAck : State := inPhase .gAck ready
/-- Three header bytes of a 2 by 1 frame received. -/
def gHdr : State :=
  { inPhase .gHdr ready with cnt := some 3, hdr := ⟨some 0, some 2, some 0, none⟩ }
/-- The same before the first of them. -/
def gHdrFirst : State := { inPhase .gHdr ready with cnt := some 0 }
/-- Three of the four payload bytes received. -/
def gPay : State :=
  { inPhase .gPay ready with
    cnt := some 3, hdr := Hdr.ofDims 2 1, exp := some 4
    packed := some (Memory.ofBytes [0x10, 0x80, 0x10]) }
def gDec : State :=
  { gPay with phase := .gDec, cnt := some 4, packed := some (Memory.ofBytes blackPacked) }
/-- A 1 by 1 frame received: an odd area. -/
def gDecOdd : State :=
  { gDec with
    hdr := Hdr.ofDims 1 1, exp := some 2, cnt := some 2
    packed := some (Memory.ofBytes [0x10, 0x80]) }

/-- A 2 by 1 white frame to store. -/
def toPut : State :=
  { ready with w := some 2, h := some 1, flen := some 6, full := some (Memory.ofBytes whiteFull) }
def pPrep : State := { inPhase .pPrep toPut with hdr := Hdr.ofDims 2 1 }
def pCmd : State := { pPrep with phase := .pCmd, packed := some (Memory.ofBytes whitePacked) }
def pAck1 : State := { pCmd with phase := .pAck1 }
/-- The last header byte is next. -/
def pHdr : State :=
  { pCmd with phase := .pHdr, cnt := some 3, exp := some 4 }
/-- The last payload byte is next. -/
def pPay : State := { pHdr with phase := .pPay, cnt := some 3 }
def pAck2 : State := { pHdr with phase := .pAck2, cnt := some 4 }

/-- Both length registers at 6, byte 0 of each buffer alone written. -/
def oneByte : State :=
  { ready with flen := some 6, plen := some 6, full := some [(0, 1)], packed := some [(0, 1)] }

/-- A packed 2 by 1 frame to decode. -/
def toDecode : State :=
  { ready with plen := some 4, packed := some (Memory.ofBytes blackPacked) }
def cDec : State := inPhase .cDec toDecode
def cEnc : State := inPhase .cEnc { toPut with op := some 3 }

/-- The transport's next answer to `tx`. -/
def txNext (a : TxAnswer) (s : State) : State := { s with txAns := [a] }

/-- The transport's next answer to `rx`. -/
def rxNext (a : RxAnswer) (s : State) : State := { s with rx := [a] }

/-! ### Single steps (P1 to P10, X1 to X4) -/

/-- Whether an instruction sends this byte and goes to this phase. -/
def sends (i : Instr) (s : State) (b : Byte) (p : Phase) : Bool :=
  (after (exec i (txNext .txOk s))).any fun t =>
    t.tx == s.tx ++ [b] && t.phase == p && t.txAns == []

/-- Whether an outcome is the abort with this code, nothing sent. -/
def aborts (r : Result) (c : ErrCode) : Bool :=
  (after r).any fun t =>
    t.err == c && t.status == .error && t.phase == .idle && t.tx == [] && t.cnt == none

theorem test_exec_get1 : sends .get1 gCmd 0x21 .gAck = true := by decide
theorem test_exec_get2 : sends .get2 gCmd 0x31 .gAck = true := by decide
theorem test_exec_get3 : sends .get3 gCmd 0x41 .gAck = true := by decide
theorem test_exec_get4 : sends .get4 gCmd 0x51 .gAck = true := by decide
theorem test_exec_put1 : sends .put1 pCmd 0x24 .pAck1 = true := by decide
theorem test_exec_put2 : sends .put2 pCmd 0x34 .pAck1 = true := by decide
theorem test_exec_put3 : sends .put3 pCmd 0x44 .pAck1 = true := by decide
theorem test_exec_put4 : sends .put4 pCmd 0x54 .pAck1 = true := by decide
theorem test_exec_put1_times_out :
    aborts (exec .put1 (txNext .txTimeout pCmd)) .transportTimeout = true := by decide
theorem test_exec_getack :
    (after (exec .getack (rxNext (.rxByte 0x10) gAck))).any
      (fun t => t.phase == .gHdr && t.cnt == some 0 && t.rx == []) = true := by decide
/-- P3: 0x99 for 0x10. -/
theorem test_exec_getack_wrong :
    aborts (exec .getack (rxNext (.rxByte 0x99) gAck)) .protocolViolation = true := by decide
/-- R45: W = 2, H = 1 goes out as 00 02 00 01. -/
theorem test_exec_putack_first :
    (after (exec .putack (rxNext (.rxByte 0xAC) pAck1))).any
      (fun t => t.phase == .pHdr && t.hdr == ⟨some 0, some 2, some 0, some 1⟩ && t.exp == some 4) =
      true := by decide
/-- S6: DONE at the second acknowledgement, the request untouched. -/
theorem test_exec_putack_second :
    (after (exec .putack (rxNext (.rxByte 0xAC) pAck2))).any
      (fun t => t.status == .done && t.full == toPut.full && t.flen == some 6 && t.w == some 2 &&
        t.packed == none && t.plen == none) = true := by decide
/-- S5: the black 2 by 1 frame. -/
theorem test_exec_get_decodes :
    (after (exec .get gDec)).any
      (fun t => t.status == .done && t.err == .none && t.w == some 2 && t.h == some 1 &&
        t.flen == some 6 && t.full == some (Memory.ofBytes [0, 0, 0, 0, 0, 0])) = true := by decide
/-- P4: the stream closes inside the payload. -/
theorem test_exec_get_short :
    (after (exec .get (rxNext .rxEos gPay))).any
      (fun t => t.err == .protocolViolation && t.full == none && t.packed == none) = true := by decide
/-- S6: P_PREP makes EB 7F EB 80. -/
theorem test_exec_put_prepares :
    (after (exec .put pPrep)).any
      (fun t => t.phase == .pCmd && t.packed == some (Memory.ofBytes whitePacked)) = true := by decide
/-- V9: a zero dimension is a FormatError. -/
theorem test_exec_put_zero :
    aborts (exec .put { pPrep with w := some 0 }) .formatError = true := by decide
theorem test_exec_decode :
    (after (exec .decode cDec)).any
      (fun t => t.status == .done && t.flen == some 6 && t.plen == some 4 &&
        t.full == some (Memory.ofBytes [0, 0, 0, 0, 0, 0])) = true := by decide
/-- X2: DECODE of nothing, PLEN = 0, is allowed. -/
theorem test_exec_decode_empty :
    (after (exec .decode { cDec with plen := some 0, packed := some [] })).any
      (fun t => t.status == .done && t.flen == some 0 && t.full == some []) = true := by decide
theorem test_exec_encode :
    (after (exec .encode cEnc)).any
      (fun t => t.status == .done && t.plen == some 4 && t.flen == some 6 &&
        t.packed == some (Memory.ofBytes whitePacked)) = true := by decide
theorem test_exec_encode_length :
    aborts (exec .encode { cEnc with flen := some 5 }) .formatError = true := by decide
theorem test_exec_ycbcr2rgb :
    (after (exec (.ycbcr2rgb 255 0 255) ready)).any (fun t => t.dpOut == [255, 237, 7]) = true := by
  decide
theorem test_exec_rgb2ycbcr :
    (after (exec (.rgb2ycbcr 10 20 30) ready)).any (fun t => t.dpOut == [31, 133, 123]) = true := by
  decide
theorem test_exec_avg2 :
    (after (exec (.avg2 239 117) ready)).any (fun t => t.dpOut == [178]) = true := by decide

/-- X1, X2: a START while BUSY, and one without its inputs. -/
theorem test_start_refused :
    refusedWith (step (starting 0 gAck)) .hostWhileBusy = true ∧
      refusedWith (step (starting 0 State.reset)) .absentInput = true ∧
      refusedWith (step (starting 2 ready)) .absentInput = true := by decide
/-- R23: a PUT's header is built at START, 00 02 00 01 for 2 by 1; a GET starts with none. -/
theorem test_start_builds_header :
    (after (step (starting 1 toPut))).any
        (fun t => t.phase == .pPrep && t.hdr == ⟨some 0, some 2, some 0, some 1⟩) = true ∧
      (after (step (starting 0 toPut))).any
        (fun t => t.phase == .gCmd && t.hdr == ⟨none, none, none, none⟩) = true := by decide
/-- P6: slot 5 fails with nothing sent. -/
theorem test_invalid_slot :
    aborts (step (txNext .txOk { gCmd with slot := some 5 })) .invalidSlot = true := by decide
theorem test_no_register_nine :
    faultedWith (step (withMove (.readReg 9) ready)) .noSuchRegister = true := by decide

/-! ### The table's words run as the first instruction after reset -/

theorem test_fetch_command :
    (after (step (State.reset.withFetchWord 8 0x51))).any
      (fun t => t.tx == [0x51] && t.phase == .gAck) = true := by decide
theorem test_fetch_acknowledgement :
    (after (step (State.reset.withFetchWord 8 0xAC))).any
      (fun t => t.phase == .pHdr && t.status == .busy) = true := by decide
theorem test_fetch_operation :
    (after (step (State.reset.withFetchWord 8 2))).any
      (fun t => t.phase == .cDec && t.status == .busy) = true := by decide
theorem test_fetch_unassigned :
    (after (step (State.reset.withFetchWord 8 0x99))).any
      (fun t => t.err == .protocolViolation) = true := by decide

/-! ### The invariant, in a state of each kind -/

/-- The fields of the invariant that do not depend on the phase. -/
theorem inv_of {s : State} (hb : s.status = .busy ↔ s.phase ≠ .idle)
    (he : s.err = .none ↔ s.status ≠ .error) (hf : (s.full.all fun m => decide m.wf) = true)
    (hp : (s.packed.all fun m => decide m.wf) = true) (hc : s.maxPix ≤ Config.defaultMaxPix)
    (h : s.phaseInv) : s.Inv where
  busy := hb
  err := he
  full m hm := by simpa [hm] using hf
  packed m hm := by simpa [hm] using hp
  capacity := hc
  phase := h

theorem inv_toPut : toPut.Inv :=
  inv_of (by decide) (by decide) (by decide) (by decide) (by decide) ⟨rfl, rfl, rfl⟩
theorem getOpen_ready : ready.getOpen := ⟨rfl, rfl, rfl, rfl, rfl, rfl⟩
theorem inv_gCmd : gCmd.Inv :=
  inv_of (by decide) (by decide) (by decide) (by decide) (by decide)
    ⟨getOpen_ready, rfl, rfl, rfl, rfl⟩
theorem inv_gAck : gAck.Inv :=
  inv_of (by decide) (by decide) (by decide) (by decide) (by decide)
    ⟨getOpen_ready, rfl, rfl, rfl, rfl⟩
theorem inv_gHdr : gHdr.Inv :=
  inv_of (by decide) (by decide) (by decide) (by decide) (by decide)
    ⟨getOpen_ready, rfl, rfl, 3, rfl, by decide, by decide⟩
theorem inv_gPay : gPay.Inv :=
  inv_of (by decide) (by decide) (by decide) (by decide) (by decide)
    ⟨getOpen_ready, 2, 1, [0x10, 0x80, 0x10],
      ⟨by decide, by decide, by decide, by decide, by decide, by decide⟩, by decide⟩
theorem inv_gDec : gDec.Inv :=
  inv_of (by decide) (by decide) (by decide) (by decide) (by decide)
    ⟨getOpen_ready, 2, 1, blackPacked,
      ⟨by decide, by decide, by decide, by decide, by decide, by decide⟩, by decide⟩
theorem putOpen_toPut : toPut.putOpen 2 1 whiteFull :=
  ⟨rfl, rfl, rfl, by decide, rfl, by decide⟩
theorem inv_pPrep : pPrep.Inv :=
  inv_of (by decide) (by decide) (by decide) (by decide) (by decide)
    ⟨2, 1, whiteFull, putOpen_toPut, rfl, rfl, rfl, rfl⟩
theorem inv_pCmd : pCmd.Inv :=
  inv_of (by decide) (by decide) (by decide) (by decide) (by decide)
    ⟨2, 1, whiteFull, whitePacked, putOpen_toPut, ⟨by decide, rfl, by decide⟩, rfl, rfl, rfl⟩
theorem inv_pAck1 : pAck1.Inv :=
  inv_of (by decide) (by decide) (by decide) (by decide) (by decide)
    ⟨2, 1, whiteFull, whitePacked, putOpen_toPut, ⟨by decide, rfl, by decide⟩, rfl, rfl, rfl⟩
theorem inv_pHdr : pHdr.Inv :=
  inv_of (by decide) (by decide) (by decide) (by decide) (by decide)
    ⟨2, 1, whiteFull, whitePacked, putOpen_toPut, ⟨by decide, rfl, by decide⟩,
      ⟨rfl, by decide⟩, 3, rfl, by decide⟩
theorem inv_pPay : pPay.Inv :=
  inv_of (by decide) (by decide) (by decide) (by decide) (by decide)
    ⟨2, 1, whiteFull, whitePacked, putOpen_toPut, ⟨by decide, rfl, by decide⟩,
      ⟨rfl, by decide⟩, 3, rfl, by decide⟩
theorem inv_pAck2 : pAck2.Inv :=
  inv_of (by decide) (by decide) (by decide) (by decide) (by decide)
    ⟨2, 1, whiteFull, whitePacked, putOpen_toPut, ⟨by decide, rfl, by decide⟩,
      ⟨rfl, by decide⟩, by decide⟩
theorem inv_cDec : cDec.Inv :=
  inv_of (by decide) (by decide) (by decide) (by decide) (by decide)
    ⟨rfl, rfl, ⟨rfl, rfl, rfl⟩, 4, blackPacked, rfl, by decide, by decide⟩
theorem inv_cEnc : cEnc.Inv :=
  inv_of (by decide) (by decide) (by decide) (by decide) (by decide)
    ⟨rfl, rfl, ⟨rfl, rfl, rfl⟩, 6, whiteFull, rfl, by decide, by decide⟩

/-! ### Each statement's hypotheses are met: witnesses, a clause at a time, at the boundary values -/

theorem witness_ClampDivIsSat8 :
    ((-1 : Int) : ℚ) / 1000 < 0 ∧ 255 ≤ ((255000 : Int) : ℚ) / 1000 ∧
      (0 ≤ ((0 : Int) : ℚ) / 1000 ∧ ((0 : Int) : ℚ) / 1000 < 255) ∧
      (0 ≤ ((254999 : Int) : ℚ) / 1000 ∧ ((254999 : Int) : ℚ) / 1000 < 255) := by norm_num

theorem witness_DecodeBufConvertsGroups :
    ([0x10, 0x80, 0x10] : List Byte).length % 4 ≠ 0 ∧ blackPacked.length % 4 = 0 ∧
      0 < blackPacked.length / 4 := by decide

theorem witness_EncodeBufConvertsGroups :
    ([0, 0, 0, 0, 0] : List Byte).length % 6 ≠ 0 ∧ whiteFull.length % 6 = 0 ∧
      0 < whiteFull.length / 6 := by decide

theorem witness_CodecLengthsAgree :
    decodeBuf blackPacked = some [0, 0, 0, 0, 0, 0] ∧ encodeBuf whiteFull = some whitePacked ∧
      (blackPacked.length = (2 : Dim).toNat * (1 : Dim).toNat * 2 ∧
        (2 : Dim).toNat * (1 : Dim).toNat % 2 = 0) ∧
      (([0x10, 0x80] : List Byte).length = (1 : Dim).toNat * (1 : Dim).toNat * 2 ∧
        (1 : Dim).toNat * (1 : Dim).toNat % 2 = 1) := by decide

theorem witness_PairsAreIndependent :
    decodeBuf blackPacked = some [0, 0, 0, 0, 0, 0] ∧ encodeBuf whiteFull = some whitePacked := by
  decide

theorem witness_BuffersHoldWhatWasWritten :
    Memory.wf [(0, 7), (1, 9), (4, 7)] ∧ Memory.firstBytes [(0, 7), (1, 9), (4, 7)] 2 = some [7, 9] ∧
      Memory.firstBytes [(0, 7), (1, 9), (4, 7)] 3 = none := by decide

theorem witness_GetCommandsSendTheirByte :
    (txNext .txOk gCmd).phase = .gCmd ∧ (txNext .txOk gCmd).txAns = [.txOk] := by decide

theorem witness_PutCommandsSendTheirByte :
    (txNext .txOk pCmd).phase = .pCmd ∧ (txNext .txOk pCmd).txAns = [.txOk] := by decide

theorem witness_GetackChecksTheByte :
    gAck.phase = .gAck ∧ (rxNext (.rxByte 0x10) gAck).rx = [.rxByte 0x10] ∧
      (rxNext (.rxByte 0x99) gAck).rx = [.rxByte 0x99] ∧ (0x99 : Byte) ≠ 0x10 := by decide

theorem witness_FirstPutackChecksTheByte :
    pAck1.phase = .pAck1 ∧ pAck1.w = some 2 ∧ pAck1.h = some 1 ∧
      (rxNext (.rxByte 0xAC) pAck1).rx = [.rxByte 0xAC] ∧
      (rxNext (.rxByte 0x10) pAck1).rx = [.rxByte 0x10] ∧ (0x10 : Byte) ≠ 0xAC := by decide

theorem witness_SecondPutackCompletesThePut :
    pAck2.phase = .pAck2 ∧ (rxNext (.rxByte 0xAC) pAck2).rx = [.rxByte 0xAC] ∧
      (rxNext (.rxByte 0xAD) pAck2).rx = [.rxByte 0xAD] ∧ (0xAD : Byte) ≠ 0xAC := by decide

theorem witness_WireInstrsKeepTheirPhase :
    ready.phase ≠ .gCmd ∧ ready.phase ≠ .pCmd ∧ ready.phase ≠ .gAck ∧ ready.phase ≠ .pAck1 ∧
      ready.phase ≠ .pAck2 ∧ gAck.phase ≠ .gCmd ∧ pAck1.phase ≠ .gAck := by decide

/-- Slots 0, 5 and 255, in both command phases. -/
theorem witness_InvalidSlotRaisedBeforeAnyByte :
    (∀ k ∈ [(0 : Byte), 5, 255], k.toNat = 0 ∨ 4 < k.toNat) ∧
      (∀ k ∈ [(0 : Byte), 5, 255], ({ gCmd with slot := some k } : State).slot = some k) ∧
      gCmd.inputs = [] ∧ gCmd.phase = .gCmd ∧ pCmd.inputs = [] ∧ pCmd.phase = .pCmd := by decide

theorem slot_valid {s : State} (h : s.slot = some 1) (k : Byte) (hk : s.slot = some k) :
    1 ≤ k.toNat ∧ k.toNat ≤ 4 := by
  obtain rfl : 1 = k := Option.some.inj (h.symm.trans hk)
  decide

/-- Each of the four phases that offer a byte; the answer to `tx` is no part of the invariant. -/
theorem witness_FailedSendAborts :
    (gCmd.Inv ∧ pCmd.Inv ∧ pHdr.Inv ∧ pPay.Inv) ∧
      (∀ s ∈ [gCmd, pCmd, pHdr, pPay], s.inputs = [] ∧ s.phase.offersTx = true ∧
        s.slot = some 1 ∧ (txNext .txTimeout s).txAns = [.txTimeout] ∧
        (txNext .txError s).txAns = [.txError]) ∧
      gCmd.phase.op = some .get ∧ pCmd.phase.op = some .put ∧ pHdr.phase.op = some .put ∧
      pPay.phase.op = some .put :=
  ⟨⟨inv_gCmd, inv_pCmd, inv_pHdr, inv_pPay⟩, by decide⟩

/-- The invariant does not depend on the answers to come. -/
theorem inv_txNext {s : State} (a : TxAnswer) (h : s.Inv) : (txNext a s).Inv :=
  ⟨h.1, h.2, h.3, h.4, h.5, h.6⟩
theorem inv_rxNext {s : State} (a : RxAnswer) (h : s.Inv) : (rxNext a s).Inv :=
  ⟨h.1, h.2, h.3, h.4, h.5, h.6⟩

/-- Each of the five phases that request a byte, with each of the three failures. -/
theorem witness_FailedReceiveAborts :
    (∀ a, (rxNext a gAck).Inv ∧ (rxNext a gHdr).Inv ∧ (rxNext a gPay).Inv ∧ (rxNext a pAck1).Inv ∧
      (rxNext a pAck2).Inv) ∧
      (∀ s ∈ [gAck, gHdr, gPay, pAck1, pAck2], s.inputs = [] ∧ s.phase.requestsRx = true ∧
        s.phase.op.isSome = true ∧
        ∀ a ∈ [RxAnswer.rxEos, .rxTimeout, .rxError], (rxNext a s).rx = [a]) :=
  ⟨fun a => ⟨inv_rxNext a inv_gAck, inv_rxNext a inv_gHdr, inv_rxNext a inv_gPay,
    inv_rxNext a inv_pAck1, inv_rxNext a inv_pAck2⟩, by decide⟩

theorem witness_SilentTransportHoldsTheCore :
    (gCmd.Inv ∧ gCmd.inputs = [] ∧ gCmd.phase.offersTx = true ∧ gCmd.slot = some 1 ∧
      gCmd.txAns = []) ∧
      (gPay.Inv ∧ gPay.inputs = [] ∧ gPay.phase.requestsRx = true ∧ gPay.rx = []) :=
  ⟨⟨inv_gCmd, by decide⟩, inv_gPay, by decide⟩

/-- CNT 0 and 2; then the fourth byte: H = 0, W = 0, one pixel too many, exactly MAXPIX pixels. -/
theorem witness_GetReceivesItsHeader :
    (gHdrFirst.phase = .gHdr ∧ gHdrFirst.cnt = some 0 ∧ (0 : Len).toNat < 3 ∧ (2 : Len).toNat < 3 ∧
      (rxNext (.rxByte 1) gHdrFirst).rx = [.rxByte 1]) ∧
      (gHdr.phase = .gHdr ∧ (rxNext (.rxByte 1) gHdr).rx = [.rxByte 1] ∧
        (rxNext (.rxByte 0) gHdr).rx = [.rxByte 0] ∧ gHdr.cnt = some 3 ∧ (3 : Len).toNat = 3 ∧
        gHdr.hdr.b0 = some 0 ∧ gHdr.hdr.b1 = some 2 ∧ gHdr.hdr.b2 = some 0 ∧
        (2 : Dim).toNat = (0 : Byte).toNat * 256 + (2 : Byte).toNat) ∧
      ((0 : Dim).toNat = (0 : Byte).toNat * 256 + (0 : Byte).toNat ∧ (0 : Dim).toNat = 0) ∧
      (0 < (2 : Dim).toNat ∧ 0 < (1 : Dim).toNat ∧
        ({ gHdr with maxPix := 1 } : State).maxPix < (2 : Dim).toNat * (1 : Dim).toNat ∧
        (2 : Dim).toNat * (1 : Dim).toNat ≤ ({ gHdr with maxPix := 2 } : State).maxPix) := by
  decide

/-- The last payload byte (CNT = 3, EXP = 4), and one before it. -/
theorem witness_GetReceivesItsPayload :
    gPay.phase = .gPay ∧ gPay.cnt = some 3 ∧ gPay.exp = some 4 ∧ gPay.packed.isSome = true ∧
      (3 : Len).toNat < (4 : Len).toNat ∧ (2 : Len).toNat < (4 : Len).toNat ∧
      (rxNext (.rxByte 0x80) gPay).rx = [.rxByte 0x80] := by decide

theorem witness_GetDecodesItsPayload :
    (gDec.phase = .gDec ∧ gDec.hdr.dims = some (2, 1) ∧
      contentOf gDec.cnt gDec.packed = some blackPacked ∧
      blackPacked.length = (2 : Dim).toNat * (1 : Dim).toNat * 2 ∧
      (2 : Dim).toNat * (1 : Dim).toNat % 2 = 0) ∧
      (gDecOdd.phase = .gDec ∧ gDecOdd.hdr.dims = some (1, 1) ∧
        contentOf gDecOdd.cnt gDecOdd.packed = some [0x10, 0x80] ∧
        ([0x10, 0x80] : List Byte).length = (1 : Dim).toNat * (1 : Dim).toNat * 2 ∧
        (1 : Dim).toNat * (1 : Dim).toNat % 2 = 1) := by decide

/-- W = 0, H = 0, FLEN one off, W*H odd; and the good frame. -/
theorem witness_PutPreparesItsFrame :
    (pPrep.phase = .pPrep ∧ pPrep.w = some 2 ∧ pPrep.h = some 1 ∧ pPrep.flen = some 6 ∧
      contentOf pPrep.flen pPrep.full = some whiteFull ∧ 0 < (2 : Dim).toNat ∧ 0 < (1 : Dim).toNat ∧
      (6 : Len).toNat = (2 : Dim).toNat * (1 : Dim).toNat * 3 ∧
      (2 : Dim).toNat * (1 : Dim).toNat % 2 = 0) ∧
      ((0 : Dim).toNat = 0 ∧ (5 : Len).toNat ≠ (2 : Dim).toNat * (1 : Dim).toNat * 3 ∧
        contentOf (some 5) pPrep.full = some [0xFF, 0xFF, 0xFF, 0xFF, 0xFF] ∧
        (1 : Dim).toNat * (1 : Dim).toNat % 2 = 1 ∧
        contentOf (some 3) pPrep.full = some [0xFF, 0xFF, 0xFF]) := by decide

/-- The last header byte and one before it; the last payload byte and one before it. -/
theorem witness_PutSendsItsFrame :
    (pHdr.cnt = some 3 ∧ pHdr.phase = .pHdr ∧ (3 : Len).toNat < 4 ∧
      pHdr.hdr.get (3 : Len).toNat = some 1 ∧ pHdr.hdr.get (0 : Len).toNat = some 0 ∧
      (txNext .txOk pHdr).txAns = [.txOk]) ∧
      (pPay.cnt = some 3 ∧ pPay.phase = .pPay ∧ pPay.exp = some 4 ∧
        pPay.packed = some (Memory.ofBytes whitePacked) ∧ (3 : Len).toNat < (4 : Len).toNat ∧
        Memory.read (Memory.ofBytes whitePacked) (3 : Len).toNat = some 0x80 ∧
        Memory.read (Memory.ofBytes whitePacked) (2 : Len).toNat = some 0xEB ∧
        (txNext .txOk pPay).txAns = [.txOk]) := by decide

theorem witness_DecodeConvertsPacked :
    cDec.phase = .cDec ∧ cDec.plen = some 4 ∧ contentOf cDec.plen cDec.packed = some blackPacked ∧
      (4 : Len).toNat ≤ 2 * (65535 * 65535) ∧ (4 : Len).toNat % 4 = 0 ∧
      contentOf (some 3) cDec.packed = some [0x10, 0x80, 0x10] ∧ (3 : Len).toNat % 4 ≠ 0 := by
  decide

theorem witness_EncodeConvertsFull :
    cEnc.phase = .cEnc ∧ cEnc.flen = some 6 ∧ contentOf cEnc.flen cEnc.full = some whiteFull ∧
      (6 : Len).toNat % 6 = 0 ∧
      contentOf (some 5) cEnc.full = some [0xFF, 0xFF, 0xFF, 0xFF, 0xFF] ∧
      (5 : Len).toNat % 6 ≠ 0 := by decide

/-- The frame exactly MAXPIX = 2 pixels large, for each operation. -/
theorem witness_StartBeginsTheOperation :
    (toPut.phase = .idle ∧ toPut.status ≠ .busy ∧ toPut.slot = some 1 ∧ toPut.w = some 2 ∧
      toPut.h = some 1 ∧ contentOf toPut.flen toPut.full = some whiteFull ∧
      (2 : Dim).toNat * (1 : Dim).toNat ≤ ({ toPut with maxPix := 2 } : State).maxPix) ∧
      (toDecode.phase = .idle ∧ toDecode.status ≠ .busy ∧ toDecode.plen = some 4 ∧
        contentOf toDecode.plen toDecode.packed = some blackPacked ∧
        (4 : Len).toNat ≤ 2 * ({ toDecode with maxPix := 2 } : State).maxPix) ∧
      (toPut.flen = some 6 ∧
        (6 : Len).toNat ≤ 3 * ({ toPut with maxPix := 2 } : State).maxPix) := by decide

theorem witness_StartIsRefused :
    (starting 0 gAck).inputs = [.writeReg 0 1] ∧ (1 : Len).getLsbD 0 = true ∧
      (starting 0 gAck).status = .busy ∧
      (({ starting 0 ready with op := none } : State).op = none ∧ ready.status ≠ .busy) ∧
      ((starting 0 State.reset).op = some 0 ∧ (starting 0 State.reset).slot = none ∧
        (starting 0 State.reset).phase = .idle) ∧
      ((starting 1 ready).op = some 1 ∧ (starting 1 ready).w = none) ∧
      ((starting 2 ready).op = some 2 ∧ contentOf ready.plen ready.packed = none) ∧
      ((starting 3 ready).op = some 3 ∧ contentOf ready.flen ready.full = none) ∧
      ({ toPut with maxPix := 1 } : State).maxPix < (2 : Dim).toNat * (1 : Dim).toNat ∧
      2 * ({ toDecode with maxPix := 1 } : State).maxPix < (4 : Len).toNat ∧
      3 * ({ toPut with maxPix := 1 } : State).maxPix < (6 : Len).toNat := by decide

theorem witness_StepRunsTheDecodedInstr :
    ((starting 2 toDecode).inputs = [.writeReg 0 1] ∧ (1 : Len).getLsbD 0 = true ∧
      (starting 2 toDecode).status ≠ .busy ∧ (starting 2 toDecode).op = some 2 ∧
      decodesTo [(2 : OpCode).setWidth 8] .decode = true) ∧
      (gCmd.inputs = [] ∧ gCmd.phase = .gCmd ∧ gCmd.slot = some 1 ∧ getCommand 1 = some 0x21 ∧
        decodesTo [0x21] .get1 = true) ∧
      (pCmd.inputs = [] ∧ pCmd.phase = .pCmd ∧ pCmd.slot = some 1 ∧ putCommand 1 = some 0x24 ∧
        decodesTo [0x24] .put1 = true) ∧
      (∀ s ∈ [gAck, gHdr, gPay, gDec, pPrep, pAck1, pHdr, pPay, pAck2, cDec, cEnc, ready],
        s.inputs = []) ∧
      gHdr.phase = .gHdr ∧ pHdr.phase = .pHdr ∧ cDec.phase = .cDec ∧ cEnc.phase = .cEnc ∧
      ready.phase = .idle := by decide

theorem witness_HostWritesOneRegister :
    ready.status ≠ .busy ∧
      (∀ n ∈ [(1 : RegNumber), 2, 3, 4, 5, 6, 7, 8],
        (withMove (.writeReg n 5) ready).inputs = [.writeReg n 5]) ∧
      (withMove (.writeReg 0 2) ready).inputs = [.writeReg 0 2] ∧ (2 : Len).getLsbD 0 = false := by
  decide

/-- Every register holding a value, and none holding one. -/
theorem witness_HostReadsAtAnyTime :
    (withMove (.readReg 2) toPut).inputs = [.readReg 2] ∧ toPut.slot = some 1 ∧ toPut.w = some 2 ∧
      toPut.h = some 1 ∧ toPut.flen = some 6 ∧ toDecode.plen = some 4 ∧ cEnc.op = some 3 ∧
      (State.reset.op = none ∧ State.reset.slot = none ∧ State.reset.w = none ∧
        State.reset.h = none ∧ State.reset.flen = none ∧ State.reset.plen = none) := by decide

/-- Indices 5 and 6 of a buffer of length 6; index 5 of one whose byte 0 alone has been written. -/
theorem witness_HostUsesTheWindows :
    (toPut.status ≠ .busy ∧
      (withMove (.writeByte .full 6 1) toPut).inputs = [.writeByte .full 6 1] ∧
      (withMove (.writeByte .packed 0 1) toPut).inputs = [.writeByte .packed 0 1]) ∧
      ((withMove (.readByte .full 5) toPut).inputs = [.readByte .full 5] ∧ toPut.flen = some 6 ∧
        toPut.full = some (Memory.ofBytes whiteFull) ∧ (5 : Len).toNat < (6 : Len).toNat ∧
        Memory.read (Memory.ofBytes whiteFull) (5 : Len).toNat = some 0xFF) ∧
      ((withMove (.readByte .packed 3) toDecode).inputs = [.readByte .packed 3] ∧
        toDecode.plen = some 4 ∧ toDecode.packed = some (Memory.ofBytes blackPacked) ∧
        (3 : Len).toNat < (4 : Len).toNat ∧
        Memory.read (Memory.ofBytes blackPacked) (3 : Len).toNat = some 0x80) ∧
      ((withMove (.readByte .full 6) toPut).inputs = [.readByte .full 6] ∧
        (6 : Len).toNat ≤ (6 : Len).toNat ∧ toDecode.flen = none ∧ toDecode.full = none) ∧
      ((withMove (.readByte .packed 4) toDecode).inputs = [.readByte .packed 4] ∧
        (4 : Len).toNat ≤ (4 : Len).toNat ∧ toPut.plen = none ∧ toPut.packed = none) ∧
      (∀ buf ∈ [Buffer.full, .packed],
        (withMove (.readByte buf 5) oneByte).inputs = [.readByte buf 5]) ∧
      (oneByte.flen = some 6 ∧ oneByte.full = some [(0, 1)] ∧ oneByte.plen = some 6 ∧
        oneByte.packed = some [(0, 1)] ∧ (5 : Len).toNat < (6 : Len).toNat ∧
        Memory.read [(0, 1)] (5 : Len).toNat = none) := by decide

theorem witness_HostLoadsAWholeBuffer :
    ready.status ≠ .busy ∧ whiteFull.length < 2 ^ 34 ∧
      (withMove (.load .full whiteFull) ready).inputs = [.load .full whiteFull] ∧
      (withMove (.load .packed whitePacked) ready).inputs = [.load .packed whitePacked] := by decide

theorem witness_HostWritesRefusedWhileBusy :
    gAck.status = .busy ∧ (withMove (.writeReg 8 1) gAck).inputs = [.writeReg 8 1] ∧
      (8 : RegNumber).toNat ≤ 8 ∧ (withMove (.writeReg 0 1) gAck).inputs = [.writeReg 0 1] ∧
      (withMove (.writeByte .full 0 1) gAck).inputs = [.writeByte .full 0 1] ∧
      (withMove (.load .packed []) gAck).inputs = [.load .packed []] := by decide

theorem witness_NoRegisterBeyondEight :
    9 ≤ (9 : RegNumber).toNat ∧ 9 ≤ (15 : RegNumber).toNat ∧
      (withMove (.writeReg 9 1) gAck).inputs = [.writeReg 9 1] ∧
      (withMove (.readReg 15) gAck).inputs = [.readReg 15] := by decide

theorem witness_ResetFromAnyState :
    (withMove .reset pPay).inputs = [.reset] ∧ (withMove .reset ready).inputs = [.reset] := by decide

theorem step_gDec : step gDec = .next (gDec.gotFrame 2 1 [0, 0, 0, 0, 0, 0]) := by rfl

theorem witness_EveryStepKeepsInv :
    gDec.Inv ∧ step gDec = .next (gDec.gotFrame 2 1 [0, 0, 0, 0, 0, 0]) := ⟨inv_gDec, step_gDec⟩

/-- With the default MAXPIX; and the one stop, a header of 2 pixels where 1 fits. -/
theorem witness_SequencerNeverStops :
    (gHdr.Inv ∧ gHdr.inputs = [] ∧ gHdr.maxPix = 65535 * 65535) ∧
      refusedWith (step (rxNext (.rxByte 1) { gHdr with maxPix := 1 })) .overCapacity = true :=
  ⟨⟨inv_gHdr, by decide⟩, by decide⟩

theorem step_gCmd : step (txNext .txOk gCmd) =
    .next { gCmd with tx := [0x21], phase := .gAck } := by rfl

theorem witness_StreamsMoveOnlyOnRequest :
    step (txNext .txOk gCmd) = .next { gCmd with tx := [0x21], phase := .gAck } := step_gCmd

/-- In both command phases. -/
theorem witness_OnlyCommandBytesOpenAnExchange :
    (step (txNext .txOk gCmd) = .next { gCmd with tx := [0x21], phase := .gAck } ∧
      [0x21] = (txNext .txOk gCmd).tx ++ [0x21] ∧ (txNext .txOk gCmd).phase = .gCmd) ∧
      ((after (step (txNext .txOk pCmd))).any (fun t => t.tx == pCmd.tx ++ [0x24]) = true ∧
        (txNext .txOk pCmd).phase = .pCmd) :=
  ⟨⟨step_gCmd, rfl, rfl⟩, by decide⟩

theorem witness_PutDoneNeedsTheSecondAck :
    (rxNext (.rxByte 0xAC) pAck2).Inv ∧ pAck2.phase.op = some .put ∧
      (after (step (rxNext (.rxByte 0xAC) pAck2))).any (fun t => t.status == .done) = true :=
  ⟨inv_rxNext _ inv_pAck2, by decide⟩

theorem witness_EveryFaultIsTheAbort :
    (rxNext (.rxByte 0x99) gAck).Inv ∧ gAck.status ≠ .error ∧
      (after (step (rxNext (.rxByte 0x99) gAck))).any (fun t => t.status == .error) = true :=
  ⟨inv_rxNext _ inv_gAck, by decide⟩

/-- A running operation of each kind; a step of each answers next. -/
theorem witness_RunningOperationKeepsItsInputs :
    (gDec.Inv ∧ pPrep.Inv ∧ cDec.Inv ∧ cEnc.Inv) ∧
      (gDec.phase.op = some .get ∧ pPrep.phase.op = some .put ∧ cDec.phase.op = some .decode ∧
        cEnc.phase.op = some .encode) ∧
      ∀ s ∈ [gDec, pPrep, cDec, cEnc], s.inputs = [] ∧ (after (step s)).isSome = true :=
  ⟨⟨inv_gDec, inv_pPrep, inv_cDec, inv_cEnc⟩, by decide⟩

/-- The same states, and a step to DONE of a GET and of a PUT. -/
theorem witness_NoPartialResult :
    (gDec.Inv ∧ (rxNext (.rxByte 0xAC) pAck2).Inv ∧ cDec.Inv ∧ cEnc.Inv) ∧
      (after (step gDec)).any (fun t => t.status == .done) = true ∧
      (after (step (rxNext (.rxByte 0xAC) pAck2))).any (fun t => t.status == .done) = true :=
  ⟨⟨inv_gDec, inv_rxNext _ inv_pAck2, inv_cDec, inv_cEnc⟩, by decide⟩

/-- A step without a host read; a read of a value; reads of a register and of a byte that hold none. -/
theorem witness_ParameterIsConstant :
    (step gDec = .next (gDec.gotFrame 2 1 [0, 0, 0, 0, 0, 0]) ∧ gDec.inputs = []) ∧
      (after (step (withMove (.readReg 5) oneByte))).any (fun t => t.freeCtr == 0) = true ∧
      (after (step (withMove (.readReg 3) oneByte))).any (fun t => t.freeCtr == 1) = true ∧
      (after (step (withMove (.readByte .full 5) oneByte))).any (fun t => t.freeCtr == 1) = true :=
  ⟨⟨step_gDec, rfl⟩, by decide⟩

/-- A GET about to start, the device answering with a W by H frame and one byte behind it. -/
def getRun (w h : Dim) (p : List Byte) : State :=
  { starting 0 ready with
    txAns := [.txOk]
    rx := .rxByte 0x10 :: ((headerBytes w h ++ p).map .rxByte ++ [.rxByte 7]) }

/-- A 2 by 1 frame (even area) and a 1 by 1 frame (odd area). -/
theorem witness_WholeGetRuns :
    (∀ s ∈ [getRun 2 1 blackPacked, getRun 1 1 [0x10, 0x80]], s.phase = .idle ∧ s.status ≠ .busy ∧
      s.op = some 0 ∧ s.slot = some 1 ∧ s.inputs = [.writeReg 0 1] ∧ s.txAns = [.txOk] ∧
      2 ≤ s.maxPix) ∧
      (1 ≤ (1 : Byte).toNat ∧ (1 : Byte).toNat ≤ 4 ∧ (1 : Len).getLsbD 0 = true) ∧
      (0 < (2 : Dim).toNat ∧ 0 < (1 : Dim).toNat ∧ (2 : Dim).toNat * (1 : Dim).toNat ≤ 2 ∧
        blackPacked.length = (2 : Dim).toNat * (1 : Dim).toNat * 2 ∧
        ([0x10, 0x80] : List Byte).length = (1 : Dim).toNat * (1 : Dim).toNat * 2) ∧
      (getRun 2 1 blackPacked).rx =
        .rxByte 0x10 :: ((headerBytes 2 1 ++ blackPacked).map .rxByte ++ [.rxByte 7]) := by decide

/-- A PUT about to start, the device taking every byte and answering 0xAC twice. -/
def putRun : State :=
  { starting 1 toPut with
    txAns := List.replicate (5 + (2 : Dim).toNat * (1 : Dim).toNat * 2) .txOk ++ []
    rx := [.rxByte 0xAC, .rxByte 0xAC] }

theorem witness_WholePutRuns :
    (putRun.phase = .idle ∧ putRun.status ≠ .busy ∧ putRun.op = some 1 ∧ putRun.slot = some 1 ∧
      putRun.inputs = [.writeReg 0 1] ∧ (1 : Len).getLsbD 0 = true ∧ putRun.w = some 2 ∧
      putRun.h = some 1 ∧ contentOf putRun.flen putRun.full = some whiteFull) ∧
      (0 < (2 : Dim).toNat ∧ 0 < (1 : Dim).toNat ∧
        (2 : Dim).toNat * (1 : Dim).toNat ≤ putRun.maxPix ∧
        (2 : Dim).toNat * (1 : Dim).toNat % 2 = 0 ∧
        whiteFull.length = (2 : Dim).toNat * (1 : Dim).toNat * 3) ∧
      putRun.txAns = List.replicate (5 + (2 : Dim).toNat * (1 : Dim).toNat * 2) .txOk ++ [] ∧
      putRun.rx = .rxByte 0xAC :: .rxByte 0xAC :: [] := by decide

/-- An ENCODE about to start, then a DECODE. -/
def bothRun : State :=
  { starting 3 toPut with inputs := [.writeReg 0 1, .proceed, .writeReg 1 2, .writeReg 0 1] }

theorem witness_EncodeThenDecodeRuns :
    bothRun.inputs = [.writeReg 0 1, .proceed, .writeReg 1 2, .writeReg 0 1] ∧
      bothRun.phase = .idle ∧ bothRun.status ≠ .busy ∧ bothRun.op = some 3 ∧
      bothRun.flen = some 6 ∧ contentOf bothRun.flen bothRun.full = some whiteFull ∧
      (6 : Len).toNat % 6 = 0 ∧ (6 : Len).toNat ≤ 3 * bothRun.maxPix ∧
      bothRun.maxPix ≤ 65535 * 65535 ∧ (1 : Len).getLsbD 0 = true ∧
      (2 : Len).extractLsb' 0 2 = 2 := by decide

/-- A reference framestore with a frame in slot 4 and nothing in the others. -/
def stored : Framestore :=
  { slot1 := .empty, slot2 := .empty, slot3 := .empty, slot4 := .holds 2 1 blackPacked
    link := .ready, seen := 0 }

theorem witness_ReferenceFramestoreStores :
    stored.link = .ready ∧ putCommand 3 = some 0x44 ∧ 0 < whitePacked.length ∧
      whitePacked.length = (2 : Dim).toNat * (1 : Dim).toNat * 2 ∧ ready.phase = .idle ∧
      ({ ready with status := .done } : State).status = .done ∧ (2 : Byte) ≠ 3 := by decide

theorem witness_ReferenceFramestoreFetches :
    stored.link = .ready ∧ getCommand 4 = some 0x51 ∧ stored.cell 4 = .holds 2 1 blackPacked ∧
      getCommand 1 = some 0x21 ∧ stored.cell 1 = .empty := by decide

theorem witness_ReferenceSlotsAreIndependent :
    (stored.take 0x54).1.cell 4 ≠ stored.cell 4 ∧
      (({ stored with link := .storing 1 2 1 whitePacked } : Framestore).settle
        { ready with status := .done }).cell 1 ≠ stored.cell 1 := by decide

end Sys2Proof.Tests
end

section
/-! PROOFS. The frame buffers as maps from indices to bytes: a canonical buffer is determined by its
reads, and its valid content is what the reads below the length say (R7, R19, R20, R27, R41). -/

namespace Sys2Proof.Machine

/-! ### A canonical buffer is determined by its reads -/

@[simp] theorem Memory.read_cons_self (a : Nat) (b : Byte) (m : Memory) :
    Memory.read ((a, b) :: m) a = some b := by
  simp [Memory.read]

theorem Memory.read_cons_ne {a j : Nat} (b : Byte) (m : Memory) (h : a ≠ j) :
    Memory.read ((a, b) :: m) j = Memory.read m j := by
  simp [Memory.read, h]

/-- Below its first index a canonical buffer holds no value. -/
theorem Memory.read_cons_of_lt {a j : Nat} {b : Byte} {m : Memory} (hm : Memory.wf ((a, b) :: m))
    (hj : j < a) : Memory.read ((a, b) :: m) j = none := by
  obtain ⟨ha, -⟩ := Memory.wf_cons.1 hm
  have hlt : ∀ x ∈ m, j < x.1 := fun x hx => hj.trans (ha x hx)
  rw [Memory.read_cons_ne b m hj.ne', Memory.read_eq_none_of_lt hlt]

/-- The rest of a canonical buffer holds no value at the first index. -/
theorem Memory.read_tail_head {a : Nat} {b : Byte} {m : Memory} (hm : Memory.wf ((a, b) :: m)) :
    Memory.read m a = none :=
  Memory.read_eq_none_of_lt (Memory.wf_cons.1 hm).1

/-- Of two canonical buffers that read alike, the first index of one is not above the other's: the
other would hold no value there. -/
theorem Memory.head_le_of_read_eq {a a' : Nat} {b b' : Byte} {m m' : Memory}
    (hm' : Memory.wf ((a', b') :: m'))
    (h : ∀ j, Memory.read ((a, b) :: m) j = Memory.read ((a', b') :: m') j) : a' ≤ a := by
  by_contra hlt
  have hread := h a
  rw [Memory.read_cons_self, Memory.read_cons_of_lt hm' (by omega)] at hread
  cases hread

/-- Canonical buffers that read alike at every index are equal. -/
theorem Memory.ext_read {m m' : Memory} (hm : Memory.wf m) (hm' : Memory.wf m')
    (h : ∀ j, Memory.read m j = Memory.read m' j) : m = m' := by
  induction m generalizing m' with
  | nil =>
    cases m' with
    | nil => rfl
    | cons c _ => simpa using (h c.1).trans (Memory.read_cons_self c.1 c.2 _)
  | cons c m ih =>
    obtain ⟨a, b⟩ := c
    cases m' with
    | nil => simpa using h a
    | cons c' m' =>
      obtain ⟨a', b'⟩ := c'
      have ha : a = a' := le_antisymm (Memory.head_le_of_read_eq hm fun j => (h j).symm)
        (Memory.head_le_of_read_eq hm' h)
      subst ha
      have hb : b = b' := by simpa using h a
      subst hb
      have htail : ∀ j, Memory.read m j = Memory.read m' j := by
        intro j
        by_cases hj : a = j
        · subst hj
          rw [Memory.read_tail_head hm, Memory.read_tail_head hm']
        · simpa only [Memory.read_cons_ne b _ hj] using h j
      rw [ih (Memory.wf_cons.1 hm).2 (Memory.wf_cons.1 hm').2 htail]

/-! ### A buffer's valid content -/

/-- Where every index from `k` to `n - 1` reads as the sequence says, the sequence is what stands there:
the converse of `Memory.read_of_bytesFrom`. -/
theorem Memory.bytesFrom_of_read {m : Memory} {k n : Nat} {bs : List Byte} (hm : Memory.wf m)
    (hk : ∀ x ∈ m, k ≤ x.1) (hlen : bs.length = n - k)
    (h : ∀ j, k ≤ j → j < n → Memory.read m j = bs[j - k]?) :
    Memory.bytesFrom m k n = some bs := by
  induction m generalizing k bs with
  | nil =>
    cases bs with
    | nil =>
      have hnk : n ≤ k := by simp at hlen; omega
      simp [Memory.bytesFrom, hnk]
    | cons b bs =>
      have hkn : k < n := by simp at hlen; omega
      simpa using h k le_rfl hkn
  | cons c m ih =>
    obtain ⟨a, b⟩ := c
    obtain ⟨ha, hwf⟩ := Memory.wf_cons.1 hm
    cases bs with
    | nil =>
      have hnk : n ≤ k := by simp at hlen; omega
      simp [Memory.bytesFrom, hnk]
    | cons b' bs =>
      have hkn : k < n := by simp at hlen; omega
      have hread : Memory.read ((a, b) :: m) k = some b' := by simpa using h k le_rfl hkn
      have hak : a = k := by
        by_contra hne
        have hka : k ≤ a := hk (a, b) (by simp)
        rw [Memory.read_cons_of_lt hm (by omega)] at hread
        cases hread
      subst hak
      have hb : b = b' := by simpa using hread
      subst hb
      have htail : Memory.bytesFrom m (a + 1) n = some bs := by
        refine ih hwf ha (by simp at hlen; omega) fun j hj hjn => ?_
        have hidx : j - a = j - (a + 1) + 1 := by omega
        have hj' := h j (by omega) hjn
        rwa [Memory.read_cons_ne b m (by omega), hidx, List.getElem?_cons_succ] at hj'
      simp [Memory.bytesFrom, hkn, htail]

/-- The valid content under a length, by the reads below it. -/
theorem Memory.firstBytes_eq_some_iff {m : Memory} (hm : Memory.wf m) (n : Nat) (bs : List Byte) :
    Memory.firstBytes m n = some bs ↔
      bs.length = n ∧ ∀ j, j < n → Memory.read m j = bs[j]? := by
  constructor
  · exact fun h => ⟨Memory.length_firstBytes h, fun _ hj => Memory.read_of_firstBytes hm h hj⟩
  · rintro ⟨hlen, hread⟩
    exact Memory.bytesFrom_of_read hm (fun _ _ => Nat.zero_le _) hlen fun j _ hj => hread j hj

/-- A canonical buffer that reads as a byte sequence is that sequence's whole-buffer assignment. -/
theorem Memory.eq_ofBytes {m : Memory} (hm : Memory.wf m) {bs : List Byte}
    (h : ∀ j, Memory.read m j = bs[j]?) : m = Memory.ofBytes bs :=
  Memory.ext_read hm (Memory.ofBytes_wf bs) fun j => by rw [h j, Memory.read_ofBytes]

/-- Settles O15: a write by `Memory.read_write`, the valid content by its reads in both directions, and
the whole-buffer assignment as the one canonical buffer with its reads. -/
theorem buffersHoldWhatWasWritten : Obligations.BuffersHoldWhatWasWritten := by
  intro m hm
  refine ⟨fun k v => ⟨Memory.write_wf k v hm, fun j => Memory.read_write m k j v⟩,
    Memory.firstBytes_eq_some_iff hm,
    fun bs => ⟨Memory.ofBytes_wf bs, Memory.read_ofBytes bs, Memory.eq_ofBytes hm⟩⟩

end Sys2Proof.Machine
end

section
/-! PROOFS. The whole-buffer load (R7, R16) and the state after reset (R26, R30). -/

namespace Sys2Proof.Machine

/-- A whole-buffer load that the host port takes: not BUSY, and a length the length register can say. -/
theorem hostLoad_accepted {s : State} {buf : Buffer} {bs : List Byte} (hs : s.status ≠ .busy)
    (hlen : bs.length < 2 ^ 34) : hostLoad buf bs s =
      .next ((s.setBuffer buf (Memory.ofBytes bs)).setLength buf (BitVec.ofNat 34 bs.length)) := by
  rw [hostLoad, if_neg hs, if_neg (Nat.not_le.2 hlen)]

/-- The step whose move is such a load. -/
theorem step_load {s : State} {rest : List Input} {buf : Buffer} {bs : List Byte}
    (hs : s.status ≠ .busy) (hlen : bs.length < 2 ^ 34) (hi : s.inputs = .load buf bs :: rest) :
    step s = .next ((State.setBuffer buf (Memory.ofBytes bs) { s with inputs := rest }).setLength buf
      (BitVec.ofNat 34 bs.length)) :=
  (step_of_input hi).trans (hostLoad_accepted hs hlen)

/-- Settles O39: the loaded content is the whole-buffer assignment, and its length fits the register. -/
theorem hostLoadsAWholeBuffer : Obligations.HostLoadsAWholeBuffer := by
  intro s rest bs hs hlen
  have hn : (BitVec.ofNat 34 bs.length).toNat = bs.length := by
    rw [BitVec.toNat_ofNat, Nat.mod_eq_of_lt hlen]
  exact ⟨fun hi => ⟨_, _, step_load hs hlen hi, hn, Memory.read_ofBytes bs⟩,
    fun hi => ⟨_, _, step_load hs hlen hi, hn, Memory.read_ofBytes bs⟩⟩

/-- Settles O42: every field of the one reset state, evaluated. -/
theorem resetState : Obligations.ResetState := by
  unfold Obligations.ResetState
  decide

end Sys2Proof.Machine
end

section
/-! PROOFS. The capacity parameter, the counter of free values and the read port through one step: no move
but a host read touches them (R5, R27, U6). -/

namespace Sys2Proof.Machine

/-- The three fields together: the capacity parameter, the counter of free values, the read port. -/
def State.port (s : State) : Nat × Nat × Option Len := (s.maxPix, s.freeCtr, s.rdata)

variable {s t : State} {o : HostOp}

theorem State.port_eq_iff :
    t.port = s.port ↔ t.maxPix = s.maxPix ∧ t.freeCtr = s.freeCtr ∧ t.rdata = s.rdata := by
  simp [State.port]

/-! ### The named updates -/

theorem State.abort_port (o : HostOp) (c : ErrCode) (s : State) :
    (s.abort o c).port = s.port := by
  simp [State.port]

theorem State.begin_port (o : HostOp) (s : State) : (s.begin o).port = s.port := by
  simp [State.port]

theorem State.setBuffer_port (buf : Buffer) (m : Memory) (s : State) :
    (s.setBuffer buf m).port = s.port := by
  simp [State.port]

theorem State.setLength_port (buf : Buffer) (n : Len) (s : State) :
    (s.setLength buf n).port = s.port := by
  simp [State.port]

/-! ### The sequencer's phases -/

theorem TxStops.port_eq (h : TxStops o s t) : t.port = s.port := by
  rcases h with ⟨-, rfl⟩ | ⟨_, _, c, -, -, rfl⟩
  · rfl
  · exact State.abort_port o c _

theorem RxStops.port_eq (h : RxStops o s t) : t.port = s.port := by
  rcases h with ⟨-, rfl⟩ | ⟨_, _, c, -, -, rfl⟩
  · rfl
  · exact State.abort_port o c _

theorem start_port (h : start o s = .next t) : t.port = s.port := by
  obtain ⟨-, -, -, rfl⟩ := start_next h
  exact State.begin_port o s

theorem stepGCmd_port (h : stepGCmd s = .next t) : t.port = s.port := by
  obtain ⟨_, -, ⟨-, rfl⟩ | ⟨_, -, hstop | ⟨_, -, rfl⟩⟩⟩ := stepGCmd_next h
  · exact State.abort_port _ _ _
  · exact hstop.port_eq
  · rfl

theorem stepPCmd_port (h : stepPCmd s = .next t) : t.port = s.port := by
  obtain ⟨_, -, ⟨-, rfl⟩ | ⟨_, -, hstop | ⟨_, -, rfl⟩⟩⟩ := stepPCmd_next h
  · exact State.abort_port _ _ _
  · exact hstop.port_eq
  · rfl

theorem stepGAck_port (h : stepGAck s = .next t) : t.port = s.port := by
  obtain hstop | ⟨_, _, -, ⟨-, rfl⟩ | ⟨-, rfl⟩⟩ := stepGAck_next h
  · exact hstop.port_eq
  · rfl
  · exact State.abort_port _ _ _

theorem stepPAck1_port (h : stepPAck1 s = .next t) : t.port = s.port := by
  obtain ⟨_, _, -, -, hstop | ⟨_, _, -, ⟨-, rfl⟩ | ⟨-, rfl⟩⟩⟩ := stepPAck1_next h
  · exact hstop.port_eq
  · rfl
  · exact State.abort_port _ _ _

theorem stepPAck2_port (h : stepPAck2 s = .next t) : t.port = s.port := by
  obtain hstop | ⟨_, _, -, ⟨-, rfl⟩ | ⟨-, rfl⟩⟩ := stepPAck2_next h
  · exact hstop.port_eq
  · rfl
  · exact State.abort_port _ _ _

theorem headerReceived_port (h : headerReceived s = .next t) : t.port = s.port := by
  obtain ⟨_, _, -, ⟨-, rfl⟩ | ⟨-, -, rfl⟩⟩ := headerReceived_next h
  · exact State.abort_port _ _ _
  · rfl

theorem stepGHdr_port (h : stepGHdr s = .next t) : t.port = s.port := by
  obtain ⟨_, -, hstop | ⟨_, _, -, ⟨-, hend⟩ | ⟨-, rfl⟩⟩⟩ := stepGHdr_next h
  · exact hstop.port_eq
  · exact (headerReceived_port hend).trans rfl
  · rfl

theorem stepPHdr_port (h : stepPHdr s = .next t) : t.port = s.port := by
  obtain ⟨_, _, -, -, hstop | ⟨_, -, ⟨-, rfl⟩ | ⟨-, rfl⟩⟩⟩ := stepPHdr_next h
  · exact hstop.port_eq
  · rfl
  · rfl

theorem stepGPay_port (h : stepGPay s = .next t) : t.port = s.port := by
  obtain ⟨_, _, _, -, -, -, hstop | ⟨_, _, -, rfl⟩⟩ := stepGPay_next h
  · exact hstop.port_eq
  · rfl

theorem stepPPay_port (h : stepPPay s = .next t) : t.port = s.port := by
  obtain ⟨_, _, _, _, -, -, -, -, hstop | ⟨_, -, rfl⟩⟩ := stepPPay_next h
  · exact hstop.port_eq
  · rfl

theorem stepGDec_port (h : stepGDec s = .next t) : t.port = s.port := by
  obtain ⟨_, _, _, -, -, ⟨-, rfl⟩ | ⟨_, -, -, rfl⟩⟩ := stepGDec_next h
  · exact State.abort_port _ _ _
  · rfl

theorem stepPPrep_port (h : stepPPrep s = .next t) : t.port = s.port := by
  obtain ⟨_, _, _, _, -, -, -, -, ⟨-, rfl⟩ | ⟨_, -, -, -, -, rfl⟩⟩ := stepPPrep_next h
  · exact State.abort_port _ _ _
  · rfl

theorem stepCDec_port (h : stepCDec s = .next t) : t.port = s.port := by
  obtain ⟨_, _, -, -, ⟨-, rfl⟩ | ⟨_, -, rfl⟩⟩ := stepCDec_next h
  · exact State.abort_port _ _ _
  · rfl

theorem stepCEnc_port (h : stepCEnc s = .next t) : t.port = s.port := by
  obtain ⟨_, _, -, -, ⟨-, rfl⟩ | ⟨_, -, rfl⟩⟩ := stepCEnc_next h
  · exact State.abort_port _ _ _
  · rfl

/-! ### The sequencer's move, and START through the host port -/

theorem fetchSequencer_port (h : (fetchSequencer s).outcome = .next t) : t.port = s.port := by
  rw [outcome_fetchSequencer] at h
  cases hp : s.phase <;> rw [hp] at h
  case idle => cases h; rfl
  case gCmd => exact stepGCmd_port h
  case gAck => exact stepGAck_port h
  case gHdr => exact stepGHdr_port h
  case gPay => exact stepGPay_port h
  case gDec => exact stepGDec_port h
  case pPrep => exact stepPPrep_port h
  case pCmd => exact stepPCmd_port h
  case pAck1 => exact stepPAck1_port h
  case pHdr => exact stepPHdr_port h
  case pPay => exact stepPPay_port h
  case pAck2 => exact stepPAck2_port h
  case cDec => exact stepCDec_port h
  case cEnc => exact stepCEnc_port h

/-- The meaning of an operation is its START or, where the sequencer stands in a phase of it, the
sequencer's move: in every other phase it has none. -/
theorem exec_decodeOpreq_next {c : OpCode} (h : exec (decodeOpreq c) s = .next t) :
    (∃ o, start o s = .next t) ∨ (fetchSequencer s).outcome = .next t := by
  rw [outcome_fetchSequencer]
  simp only [decodeOpreq] at h
  split_ifs at h
  all_goals
    simp only [exec, execGet, execPut, execDecode, execEncode] at h
    cases hp : s.phase <;> simp only [hp, reduceCtorEq] at h
    case idle => exact .inl ⟨_, h⟩
    all_goals exact .inr h

theorem fetchStart_port (h : (fetchStart s).outcome = .next t) : t.port = s.port := by
  rw [outcome_fetchStart] at h
  split at h
  · cases h
  · split at h
    · cases h
    · obtain ⟨o, hstart⟩ | hseq := exec_decodeOpreq_next h
      · exact start_port hstart
      · exact fetchSequencer_port hseq

/-! ### The host port -/

theorem hostWriteReg_port {n : RegNumber} {v : Len} (h : hostWriteReg n v s = .next t) :
    t.port = s.port := by
  obtain ⟨-, -, rfl | rfl | rfl | rfl | rfl | rfl | rfl⟩ := hostWriteReg_next h <;> rfl

theorem hostWriteByte_port {buf : Buffer} {i : Len} {b : Byte}
    (h : hostWriteByte buf i b s = .next t) : t.port = s.port := by
  obtain ⟨-, rfl⟩ := hostWriteByte_next h
  exact State.setBuffer_port _ _ _

theorem hostLoad_port {buf : Buffer} {bs : List Byte} (h : hostLoad buf bs s = .next t) :
    t.port = s.port := by
  obtain ⟨-, -, rfl⟩ := hostLoad_next h
  rw [State.setLength_port, State.setBuffer_port]

/-- A read takes a free value where there is no value, and none where there is one. -/
theorem State.readValue_freeCtr {k : Nat} (v : Option (BitVec k)) (s : State) :
    (s.readValue v).freeCtr = s.freeCtr ∨
      (s.readValue v).freeCtr = s.freeCtr + 1 ∧ v = none := by
  cases v with
  | none => exact .inr ⟨rfl, rfl⟩
  | some _ => exact .inl rfl

/-- The registers that can hold no value are 1 to 6 (R27): reading one of them then takes the one free
value. -/
theorem hostReadReg_freeCtr {n : RegNumber} (h : hostReadReg n s = .next t) :
    t.freeCtr = s.freeCtr ∨ t.freeCtr = s.freeCtr + 1 ∧
      (n = 1 ∧ s.op = none ∨ n = 2 ∧ s.slot = none ∨ n = 3 ∧ s.w = none ∨ n = 4 ∧ s.h = none ∨
        n = 5 ∧ s.flen = none ∨ n = 6 ∧ s.plen = none) := by
  obtain ⟨rfl, rfl⟩ | ⟨rfl, rfl⟩ | ⟨rfl, rfl⟩ | ⟨rfl, rfl⟩ | ⟨rfl, rfl⟩ | ⟨rfl, rfl⟩ | ⟨rfl, rfl⟩ |
    ⟨rfl, rfl⟩ | ⟨rfl, rfl⟩ := hostReadReg_cases h
  all_goals exact (State.readValue_freeCtr _ s).imp_right fun ⟨hctr, hv⟩ => ⟨hctr, by simp_all⟩

theorem hostReadReg_maxPix {n : RegNumber} (h : hostReadReg n s = .next t) :
    t.maxPix = s.maxPix := by
  obtain ⟨-, k, v, rfl⟩ := hostReadReg_next h
  exact State.readValue_maxPix s k v

/-! ### One step -/

/-- The host's two kinds of read, the only moves that touch the read port. -/
def Input.IsRead (i : Input) : Prop :=
  (∃ n, i = .readReg n) ∨ ∃ buf k, i = .readByte buf k

theorem fetchInput_port {i : Input} (hi : ¬ i.IsRead) (h : (fetchInput i s).outcome = .next t) :
    t.port = s.port := by
  cases i with
  | proceed => exact fetchSequencer_port h
  | writeReg n v =>
    simp only [fetchInput] at h
    split at h
    · exact fetchStart_port h
    · exact hostWriteReg_port h
  | readReg n => exact absurd (.inl ⟨n, rfl⟩) hi
  | writeByte buf k b => exact hostWriteByte_port h
  | readByte buf k => exact absurd (.inr ⟨buf, k, rfl⟩) hi
  | load buf bs => exact hostLoad_port h
  | reset => cases h; rfl

/-- A step whose next move, if there is one, is no read keeps all three fields. -/
theorem step_port (hi : ∀ i rest, s.inputs = i :: rest → ¬ i.IsRead) (h : step s = .next t) :
    t.port = s.port := by
  cases hs : s.inputs with
  | nil =>
    rw [step_of_no_input hs] at h
    exact fetchSequencer_port h
  | cons i rest =>
    rw [step_of_input hs] at h
    exact (fetchInput_port (hi i rest hs) h).trans rfl

theorem step_readReg {n : RegNumber} {rest : List Input} (hi : s.inputs = .readReg n :: rest) :
    step s = hostReadReg n { s with inputs := rest } :=
  step_of_input hi

theorem step_readByte {buf : Buffer} {k : Len} {rest : List Input}
    (hi : s.inputs = .readByte buf k :: rest) :
    step s = .next (State.readValue (s.windowByte buf k) { s with inputs := rest }) :=
  step_of_input hi

/-- The three kinds of next move. -/
theorem State.inputs_cases (s : State) :
    (∀ i rest, s.inputs = i :: rest → ¬ i.IsRead) ∨ (∃ n rest, s.inputs = .readReg n :: rest) ∨
      ∃ buf k rest, s.inputs = .readByte buf k :: rest := by
  by_cases hr : ∃ i rest, s.inputs = i :: rest ∧ i.IsRead
  · obtain ⟨_, rest, hs, ⟨n, rfl⟩ | ⟨buf, k, rfl⟩⟩ := hr
    · exact .inr (.inl ⟨n, rest, hs⟩)
    · exact .inr (.inr ⟨buf, k, rest, hs⟩)
  · exact .inl fun i rest hs hi => hr ⟨i, rest, hs, hi⟩

/-- Settles O53, by the next move: one that is no read keeps all three fields, a read keeps MAXPIX and
takes a free value only where there is no value. -/
theorem parameterIsConstant : Obligations.ParameterIsConstant := by
  intro s t h
  obtain hno | ⟨n, rest, hs⟩ | ⟨buf, k, rest, hs⟩ := s.inputs_cases
  · obtain ⟨hmax, hctr, hrdata⟩ := State.port_eq_iff.1 (step_port hno h)
    exact ⟨hmax, .inl hctr, fun _ _ => hrdata⟩
  · rw [step_readReg hs] at h
    refine ⟨(hostReadReg_maxPix h).trans rfl, ?_, fun hne _ => absurd hs (hne n rest)⟩
    refine (hostReadReg_freeCtr h).imp_right fun ⟨hctr, hv⟩ => ⟨hctr, rest, ?_⟩
    simpa [hs] using hv
  · rw [step_readByte hs] at h
    cases h
    refine ⟨by simp, ?_, fun _ hne => absurd hs (hne buf k rest)⟩
    refine (State.readValue_freeCtr _ _).imp_right fun ⟨hctr, hv⟩ => ⟨hctr, rest, ?_⟩
    simp [hs, hv]

end Sys2Proof.Machine
end

section
/-! PROOFS. Lengths as values of the 34-bit registers (R16, R22, R24), and the header as bytes and
in HDR (R23, R45, R64, R128). -/

namespace Sys2Proof.Machine

/-! ### Lengths as register values -/

/-- The payload of a frame with both dimensions positive is not empty. -/
theorem packedLength_pos {w h : Dim} (hz : zeroDim w h = false) : 0 < packedLength w h := by
  have hne : ¬ (w.toNat = 0 ∨ h.toNat = 0) := by simp [← zeroDim_iff, hz]
  have hpos : 0 < w.toNat * h.toNat := Nat.mul_pos (by omega) (by omega)
  simp only [packedLength, pixels]
  omega

theorem len_toNat_ofNat {n : Nat} (h : n < 2 ^ 34) : (BitVec.ofNat 34 n).toNat = n := by
  rw [BitVec.toNat_ofNat, Nat.mod_eq_of_lt h]

/-- A length register that moves on by one, below a bound that fits it. -/
theorem len_succ_toNat {c : Len} {n : Nat} (hc : c.toNat < n) (hn : n < 2 ^ 34) :
    (c + 1).toNat = c.toNat + 1 := by
  have h1 : (1 : Len).toNat = 1 := rfl
  rw [BitVec.toNat_add, h1, Nat.mod_eq_of_lt (by omega)]

/-- The test `CNT + 1 = EXP` reads as one of numbers: CNT does not wrap below EXP. -/
theorem len_succ_eq_iff {c e : Len} (h : c.toNat < e.toNat) :
    c + 1 = e ↔ c.toNat + 1 = e.toNat := by
  rw [← BitVec.toNat_inj, len_succ_toNat h e.isLt]

theorem len_succ_lt {c e : Len} (h : c.toNat < e.toNat) (hne : c + 1 ≠ e) :
    (c + 1).toNat < e.toNat := by
  have hne' := mt (len_succ_eq_iff h).2 hne
  rw [len_succ_toNat h e.isLt]
  omega

/-- CNT moves on by one with the byte that is appended. -/
theorem len_ofNat_length_append (p : List Byte) (b : Byte) :
    BitVec.ofNat 34 p.length + 1 = BitVec.ofNat 34 (p ++ [b]).length := by
  simp [BitVec.ofNat_add]

/-- After `n` of `m` bytes the test `CNT + 1 = EXP` asks whether this byte is the last. -/
theorem len_ofNat_succ_eq_iff {n m : Nat} (h : n < m) (hm : m < 2 ^ 34) :
    BitVec.ofNat 34 n + 1 = BitVec.ofNat 34 m ↔ n + 1 = m := by
  have hn := len_toNat_ofNat (h.trans hm)
  rw [len_succ_eq_iff (by rwa [hn, len_toNat_ofNat hm]), hn, len_toNat_ofNat hm]

/-! ### HDR, byte by byte (R23) -/

/-- What one header byte written leaves, once: the byte at its index, every other as before. -/
theorem Hdr.get_set (d : Hdr) {n : Nat} (hn : n < 4) (b : Byte) (i : Nat) :
    (d.set n b).get i = if i = n then some b else d.get i := by
  match n, hn with
  | 0, _ | 1, _ | 2, _ | 3, _ =>
    match i with
    | 0 | 1 | 2 | 3 | _ + 4 => simp [Hdr.set, Hdr.get]

theorem Hdr.set_three {x0 x1 x2 : Byte} {d : Hdr} (h0 : d.b0 = some x0) (h1 : d.b1 = some x1)
    (h2 : d.b2 = some x2) (b : Byte) : d.set 3 b = ⟨some x0, some x1, some x2, some b⟩ := by
  simp [Hdr.set, h0, h1, h2]

/-! ### The header's bytes (R45, R64) -/

theorem dim_high_byte (w : Dim) : BitVec.ofNat 8 (w.toNat / 256) = w.extractLsb' 8 8 := by
  apply BitVec.eq_of_toNat_eq
  simp [BitVec.extractLsb'_toNat, Nat.shiftRight_eq_div_pow]

theorem dim_low_byte (w : Dim) : BitVec.ofNat 8 (w.toNat % 256) = w.extractLsb' 0 8 := by
  apply BitVec.eq_of_toNat_eq
  simp [BitVec.extractLsb'_toNat]

theorem Hdr.ofDims_eq (w h : Dim) : Hdr.ofDims w h =
    ⟨some (w.extractLsb' 8 8), some (w.extractLsb' 0 8), some (h.extractLsb' 8 8),
      some (h.extractLsb' 0 8)⟩ := by
  simp only [Hdr.ofDims, dim_high_byte, dim_low_byte]

theorem headerBytes_eq (w h : Dim) : headerBytes w h =
    [w.extractLsb' 8 8, w.extractLsb' 0 8, h.extractLsb' 8 8, h.extractLsb' 0 8] := by
  simp only [headerBytes, dim_high_byte, dim_low_byte]

/-- Two bytes are the two halves of a dimension exactly when they are its big-endian digits. -/
theorem dim_bytes_iff (w : Dim) (x y : Byte) :
    BitVec.ofNat 8 (w.toNat / 256) = x ∧ BitVec.ofNat 8 (w.toNat % 256) = y ↔
      w.toNat = x.toNat * 256 + y.toNat := by
  have hw := w.isLt
  have hx := x.isLt
  have hy := y.isLt
  simp only [← BitVec.toNat_inj, BitVec.toNat_ofNat]
  omega

theorem beDim_eq_iff (x y : Byte) (w : Dim) :
    beDim x y = w ↔ w.toNat = x.toNat * 256 + y.toNat := by
  have hx := x.isLt
  have hy := y.isLt
  simp only [beDim, ← BitVec.toNat_inj, BitVec.toNat_ofNat]
  omega

/-- A complete header parses to the dimensions whose big-endian digits its bytes are (R128). -/
theorem Hdr.dims_eq_some {x0 x1 x2 x3 : Byte} {w h : Dim}
    (hw : w.toNat = x0.toNat * 256 + x1.toNat) (hh : h.toNat = x2.toNat * 256 + x3.toNat) :
    Hdr.dims ⟨some x0, some x1, some x2, some x3⟩ = some (w, h) := by
  simp only [Hdr.dims, (beDim_eq_iff x0 x1 w).2 hw, (beDim_eq_iff x2 x3 h).2 hh]

theorem Hdr.dims_ofDims (w h : Dim) : (Hdr.ofDims w h).dims = some (w, h) :=
  Hdr.dims_eq_some ((dim_bytes_iff w _ _).1 ⟨rfl, rfl⟩) ((dim_bytes_iff h _ _).1 ⟨rfl, rfl⟩)

theorem Hdr.get_ofDims (w h : Dim) (i : Nat) : (Hdr.ofDims w h).get i = (headerBytes w h)[i]? := by
  match i with
  | 0 | 1 | 2 | 3 => rfl
  | _ + 4 => simp [Hdr.get, headerBytes]

/-- Settles O4: each half of a dimension is its big-endian digit, and the parse is the inverse. -/
theorem headerIsBigEndian : Obligations.HeaderIsBigEndian := by
  intro w h
  refine ⟨headerBytes_eq w h, Hdr.dims_ofDims w h, Hdr.get_ofDims w h, fun x0 x1 x2 x3 => ?_⟩
  rw [← dim_bytes_iff w, ← dim_bytes_iff h]
  simp [headerBytes, and_assoc]

end Sys2Proof.Machine
end

section
/-! PROOFS. The invariant through one step (R17, R18, R21 to R24, R29): it holds after reset, and
every move of the host, of the reset input and of the sequencer keeps it. -/

namespace Sys2Proof.Machine

variable {s t : State} {o : HostOp}

/-! ### What the invariant does not read -/

theorem State.Inv.with_inputs (h : s.Inv) (is : List Input) :
    State.Inv { s with inputs := is } :=
  ⟨h.busy, h.err, h.full, h.packed, h.capacity, h.phase⟩

theorem State.Inv.with_txAns (h : s.Inv) (as : List TxAnswer) :
    State.Inv { s with txAns := as } :=
  ⟨h.busy, h.err, h.full, h.packed, h.capacity, h.phase⟩

theorem State.Inv.with_rx (h : s.Inv) (as : List RxAnswer) :
    State.Inv { s with rx := as } :=
  ⟨h.busy, h.err, h.full, h.packed, h.capacity, h.phase⟩

theorem State.Inv.readValue {k : Nat} (h : s.Inv) (v : Option (BitVec k)) :
    (s.readValue v).Inv := by
  cases v <;> exact ⟨h.busy, h.err, h.full, h.packed, h.capacity, h.phase⟩

/-! ### The kinds of next state: at rest, aborted, done, still running -/

theorem State.Inv.idle_of_not_busy (h : s.Inv) (hb : s.status ≠ .busy) : s.phase = .idle := by
  by_contra hp
  exact hb (h.busy.2 hp)

theorem State.Inv.busy_of_op (h : s.Inv) (ho : s.phase.op = some o) : s.status = .busy := by
  refine h.busy.2 fun hp => ?_
  rw [hp] at ho
  cases ho

theorem State.Inv.hiddenVoid (h : s.Inv) (hp : s.phase = .idle) : s.hiddenVoid := by
  have hphase := h.phase
  rwa [State.phaseInv, hp] at hphase

/-- A state in which no operation runs has the invariant as soon as its two flags agree, its buffers
are canonical and its hidden registers hold no value. -/
theorem State.Inv.of_idle (hp : t.phase = .idle) (hb : t.status ≠ .busy)
    (herr : t.err = .none ↔ t.status ≠ .error) (hfull : ∀ m, t.full = some m → Memory.wf m)
    (hpacked : ∀ m, t.packed = some m → Memory.wf m) (hcap : t.maxPix ≤ Config.defaultMaxPix)
    (hhidden : t.hiddenVoid) : t.Inv where
  busy := by simp [hp, hb]
  err := herr
  full := hfull
  packed := hpacked
  capacity := hcap
  phase := by rwa [State.phaseInv, hp]

/-- What a step keeps while the operation goes on: STATUS, ERR, FULL and MAXPIX. -/
def State.GoesOn (s t : State) : Prop :=
  t.status = s.status ∧ t.err = s.err ∧ t.full = s.full ∧ t.maxPix = s.maxPix

/-- A running operation that goes on to a running phase. -/
theorem State.Inv.of_running (h : s.Inv) (hon : s.GoesOn t) (hp : s.phase ≠ .idle)
    (hp' : t.phase ≠ .idle) (hpacked : ∀ m, t.packed = some m → Memory.wf m)
    (hphase : t.phaseInv) : t.Inv := by
  obtain ⟨hstatus, herr, hfull, hmax⟩ := hon
  refine ⟨?_, ?_, ?_, hpacked, ?_, hphase⟩
  · simp [hstatus, h.busy, hp, hp']
  · rw [herr, hstatus]; exact h.err
  · rw [hfull]; exact h.full
  · rw [hmax]; exact h.capacity

theorem State.voidFor_full_subset {m : Memory} (h : (s.voidFor o).full = some m) :
    s.full = some m := by
  cases o <;> simp_all

theorem State.voidFor_packed_subset {m : Memory} (h : (s.voidFor o).packed = some m) :
    s.packed = some m := by
  cases o <;> simp_all

theorem State.Inv.abort {c : ErrCode} (h : s.Inv) (hc : c ≠ .none) : (s.abort o c).Inv :=
  .of_idle rfl (by simp) (by simp [hc]) (fun m hm => h.full m (State.voidFor_full_subset hm))
    (fun m hm => h.packed m (State.voidFor_packed_subset hm)) (by simpa using h.capacity)
    ⟨rfl, rfl, rfl⟩

/-- A running operation that ends with DONE: ERR is NONE while it runs, and stays (R18, R140). -/
theorem State.Inv.of_done (h : s.Inv) (hrun : s.phase ≠ .idle) (hstatus : t.status = .done)
    (hp : t.phase = .idle) (herr : t.err = s.err) (hmax : t.maxPix = s.maxPix)
    (hfull : ∀ m, t.full = some m → Memory.wf m) (hpacked : ∀ m, t.packed = some m → Memory.wf m)
    (hhidden : t.hiddenVoid) : t.Inv := by
  have hnone : s.err = .none := h.err.2 (by simp [h.busy.2 hrun])
  exact .of_idle hp (by simp [hstatus]) (by simp [hstatus, herr, hnone]) hfull hpacked
    (hmax ▸ h.capacity) hhidden

theorem TxStops.inv (hstop : TxStops o s t) (h : s.Inv) : t.Inv := by
  obtain ⟨-, rfl⟩ | ⟨_, as, c, -, hc, rfl⟩ := hstop
  · exact h
  · refine (h.with_txAns as).abort ?_
    rintro rfl
    simp at hc

theorem RxStops.inv (hstop : RxStops o s t) (h : s.Inv) : t.Inv := by
  obtain ⟨-, rfl⟩ | ⟨_, as, c, -, hc, rfl⟩ := hstop
  · exact h
  · refine (h.with_rx as).abort ?_
    rintro rfl
    simp at hc

/-! ### GET (R143) -/

theorem stepGCmd_inv (hs : s.Inv) (hp : s.phase = .gCmd) (h : stepGCmd s = .next t) : t.Inv := by
  have hphase := hs.phase
  rw [State.phaseInv, hp] at hphase
  obtain ⟨_, -, ⟨-, rfl⟩ | ⟨_, -, hstop | ⟨_, -, rfl⟩⟩⟩ := stepGCmd_next h
  · exact hs.abort (by simp)
  · exact hstop.inv hs
  · exact hs.of_running ⟨rfl, rfl, rfl, rfl⟩ (by simp [hp]) (by simp) hs.packed hphase

theorem stepGAck_inv (hs : s.Inv) (hp : s.phase = .gAck) (h : stepGAck s = .next t) : t.Inv := by
  have hphase := hs.phase
  rw [State.phaseInv, hp] at hphase
  obtain ⟨hopen, hpacked, -, -, hexp⟩ := hphase
  obtain hstop | ⟨_, as, -, ⟨-, rfl⟩ | ⟨-, rfl⟩⟩ := stepGAck_next h
  · exact hstop.inv hs
  · exact hs.of_running ⟨rfl, rfl, rfl, rfl⟩ (by simp [hp]) (by simp) hs.packed
      ⟨hopen, hpacked, hexp, 0, rfl, by simp, by simp⟩
  · exact (hs.with_rx as).abort (by simp)

/-- A header byte: before the fourth the bytes below CNT are there; after it an accepted header
enters G_PAY with nothing collected. -/
theorem stepGHdr_inv (hs : s.Inv) (hp : s.phase = .gHdr) (h : stepGHdr s = .next t) : t.Inv := by
  have hphase := hs.phase
  rw [State.phaseInv, hp] at hphase
  obtain ⟨hopen, hpacked, hexp, c, hcnt, hc4, hgot⟩ := hphase
  obtain ⟨c', hcnt', hstop | ⟨b, as, -, ⟨-, hend⟩ | ⟨hne, rfl⟩⟩⟩ := stepGHdr_next h
  · exact hstop.inv hs
  · obtain ⟨w, hh, hdims, ⟨-, rfl⟩ | ⟨hz, hle, rfl⟩⟩ := headerReceived_next hend
    · exact (hs.with_rx as).abort (o := .get) (c := .formatError) (by simp)
    · refine hs.of_running ⟨rfl, rfl, rfl, rfl⟩ (by simp [hp]) (by simp) ?_
        ⟨hopen, w, hh, [], ⟨hdims, hz, hle, rfl, rfl, rfl⟩, packedLength_pos hz⟩
      rintro m ⟨⟩
      exact List.Pairwise.nil
  · obtain rfl : c' = c := by simpa [hcnt'] using hcnt
    have hsucc : (c' + 1).toNat = c'.toNat + 1 := len_succ_toNat hc4 (by decide)
    have hlt : (c' + 1).toNat < 4 := len_succ_lt (e := 4) hc4 hne
    have hset : ∀ i, i < (c' + 1).toNat → ((s.hdr.set c'.toNat b).get i).isSome = true := by
      intro i hi
      rw [Hdr.get_set _ hc4]
      split
      · rfl
      · exact hgot i (by omega)
    exact hs.of_running ⟨rfl, rfl, rfl, rfl⟩ (by simp [hp]) (by simp [hp]) hs.packed
      (by simpa only [State.phaseInv, hp] using ⟨hopen, hpacked, hexp, c' + 1, rfl, hlt, hset⟩)

/-- One more payload byte is appended to what has been collected. -/
theorem State.receiving.push {w hh : Dim} {p : List Byte} (hrec : s.receiving w hh p)
    (hlen : p.length < packedLength w hh) (b : Byte) :
    State.receiving w hh (p ++ [b]) { s with
      packed := some (Memory.write (Memory.ofBytes p) (BitVec.ofNat 34 p.length).toNat b)
      cnt := some (BitVec.ofNat 34 p.length + 1) } := by
  obtain ⟨hdims, hz, hle, hexp, -, -⟩ := hrec
  have hfit := packedLength_lt w hh
  refine ⟨hdims, hz, hle, hexp, ?_, congrArg some (len_ofNat_length_append p b)⟩
  rw [len_toNat_ofNat (by omega), Memory.write_ofBytes_length]

theorem stepGPay_inv (hs : s.Inv) (hp : s.phase = .gPay) (h : stepGPay s = .next t) : t.Inv := by
  have hphase := hs.phase
  rw [State.phaseInv, hp] at hphase
  obtain ⟨hopen, w, hh, p, hrec, hlen⟩ := hphase
  obtain ⟨-, -, -, hexp, hpacked, hcnt⟩ := id hrec
  obtain ⟨c, e, m, hc, he, hm, hstop | ⟨b, as, -, rfl⟩⟩ := stepGPay_next h
  · exact hstop.inv hs
  obtain rfl : c = BitVec.ofNat 34 p.length := by simpa [hc] using hcnt
  obtain rfl : e = BitVec.ofNat 34 (packedLength w hh) := by simpa [he] using hexp
  obtain rfl : m = Memory.ofBytes p := by simpa [hm] using hpacked
  have hlast := len_ofNat_succ_eq_iff hlen (packedLength_lt w hh)
  have hpush := hrec.push hlen b
  have hwf : ∀ m, some (Memory.write (Memory.ofBytes p) (BitVec.ofNat 34 p.length).toNat b) =
      some m → Memory.wf m := by
    rintro m ⟨⟩
    exact Memory.write_wf _ _ (Memory.ofBytes_wf p)
  split
  · rename_i hend
    exact hs.of_running ⟨rfl, rfl, rfl, rfl⟩ (by simp [hp]) (by simp) hwf
      ⟨hopen, w, hh, p ++ [b], hpush, by simpa using hlast.1 hend⟩
  · rename_i hmore
    have hshort : (p ++ [b]).length < packedLength w hh := by
      have := mt hlast.2 hmore
      simp
      omega
    exact hs.of_running ⟨rfl, rfl, rfl, rfl⟩ (by simp [hp]) (by simp [hp]) hwf
      (by simpa only [State.phaseInv, hp] using ⟨hopen, w, hh, p ++ [b], hpush, hshort⟩)

/-- The decode ends the GET: both buffers are canonical, the hidden registers void. -/
theorem stepGDec_inv (hs : s.Inv) (hp : s.phase = .gDec) (h : stepGDec s = .next t) : t.Inv := by
  obtain ⟨w, hh, _, -, -, ⟨-, rfl⟩ | ⟨f, -, -, rfl⟩⟩ := stepGDec_next h
  · exact hs.abort (by simp)
  · refine hs.of_done (by simp [hp]) rfl rfl rfl rfl ?_ (by simp) ⟨rfl, rfl, rfl⟩
    rintro m ⟨⟩
    exact Memory.ofBytes_wf f

/-! ### PUT (R144) -/

/-- A PUT's frame encoded: PACKED holds the whole payload from here on. -/
theorem stepPPrep_inv (hs : s.Inv) (hp : s.phase = .pPrep) (h : stepPPrep s = .next t) :
    t.Inv := by
  have hphase := hs.phase
  rw [State.phaseInv, hp] at hphase
  obtain ⟨w, hh, f, hopen, -, hheaded⟩ := hphase
  obtain ⟨hslot, hw, hhh, hrest⟩ := hopen
  obtain ⟨w', hh', _, _, hw', hhh', -, -, ⟨-, rfl⟩ | ⟨p, hz, -, -, hlen, rfl⟩⟩ := stepPPrep_next h
  · exact hs.abort (by simp)
  · obtain rfl : w' = w := by simpa [hw'] using hw
    obtain rfl : hh' = hh := by simpa [hhh'] using hhh
    refine hs.of_running ⟨rfl, rfl, rfl, rfl⟩ (by simp [hp]) (by simp) ?_
      ⟨w', hh', f, p, ⟨hslot, hw', hhh', hrest⟩, ⟨hz, rfl, hlen⟩, hheaded⟩
    rintro m ⟨⟩
    exact Memory.ofBytes_wf p

theorem stepPCmd_inv (hs : s.Inv) (hp : s.phase = .pCmd) (h : stepPCmd s = .next t) : t.Inv := by
  have hphase := hs.phase
  rw [State.phaseInv, hp] at hphase
  obtain ⟨_, -, ⟨-, rfl⟩ | ⟨_, -, hstop | ⟨_, -, rfl⟩⟩⟩ := stepPCmd_next h
  · exact hs.abort (by simp)
  · exact hstop.inv hs
  · exact hs.of_running ⟨rfl, rfl, rfl, rfl⟩ (by simp [hp]) (by simp) hs.packed hphase

theorem stepPAck1_inv (hs : s.Inv) (hp : s.phase = .pAck1) (h : stepPAck1 s = .next t) :
    t.Inv := by
  have hphase := hs.phase
  rw [State.phaseInv, hp] at hphase
  obtain ⟨w, hh, f, p, ⟨hslot, hw, hhh, hrest⟩, hframed, -⟩ := hphase
  obtain ⟨w', hh', hw', hhh', hstop | ⟨_, as, -, ⟨-, rfl⟩ | ⟨-, rfl⟩⟩⟩ := stepPAck1_next h
  · exact hstop.inv hs
  · obtain rfl : w' = w := by simpa [hw'] using hw
    obtain rfl : hh' = hh := by simpa [hhh'] using hhh
    exact hs.of_running ⟨rfl, rfl, rfl, rfl⟩ (by simp [hp]) (by simp) hs.packed
      ⟨w', hh', f, p, ⟨hslot, hw', hhh', hrest⟩, hframed, ⟨rfl, rfl⟩, 0, rfl, by simp⟩
  · exact (hs.with_rx as).abort (by simp)

theorem stepPHdr_inv (hs : s.Inv) (hp : s.phase = .pHdr) (h : stepPHdr s = .next t) : t.Inv := by
  have hphase := hs.phase
  rw [State.phaseInv, hp] at hphase
  obtain ⟨w, hh, f, p, hopen, hframed, hsending, c, hcnt, hc4⟩ := hphase
  obtain ⟨c', b, hcnt', -, hstop | ⟨as, -, ⟨-, rfl⟩ | ⟨hne, rfl⟩⟩⟩ := stepPHdr_next h
  · exact hstop.inv hs
  · exact hs.of_running ⟨rfl, rfl, rfl, rfl⟩ (by simp [hp]) (by simp) hs.packed
      ⟨w, hh, f, p, hopen, hframed, hsending, 0, rfl, by simpa using packedLength_pos hframed.1⟩
  · obtain rfl : c' = c := by simpa [hcnt'] using hcnt
    exact hs.of_running ⟨rfl, rfl, rfl, rfl⟩ (by simp [hp]) (by simp [hp]) hs.packed
      (by simpa only [State.phaseInv, State.sent_phase, hp] using
        ⟨w, hh, f, p, hopen, hframed, hsending, c' + 1, rfl, len_succ_lt (e := 4) hc4 hne⟩)

theorem stepPPay_inv (hs : s.Inv) (hp : s.phase = .pPay) (h : stepPPay s = .next t) : t.Inv := by
  have hphase := hs.phase
  rw [State.phaseInv, hp] at hphase
  obtain ⟨w, hh, f, p, hopen, hframed, ⟨hhdr, hexp⟩, c, hcnt, hlt⟩ := hphase
  obtain ⟨c', e, _, b, hcnt', he, -, -, hstop | ⟨as, -, rfl⟩⟩ := stepPPay_next h
  · exact hstop.inv hs
  obtain rfl : c' = c := by simpa [hcnt'] using hcnt
  obtain rfl : e = BitVec.ofNat 34 (packedLength w hh) := by simpa [he] using hexp
  split
  · rename_i hend
    exact hs.of_running ⟨rfl, rfl, rfl, rfl⟩ (by simp [hp]) (by simp) hs.packed
      ⟨w, hh, f, p, hopen, hframed, ⟨hhdr, hexp⟩, by rw [hend]⟩
  · rename_i hmore
    have hlt' := len_succ_lt (e := BitVec.ofNat 34 (packedLength w hh))
      (by rwa [len_toNat_ofNat (packedLength_lt w hh)]) hmore
    rw [len_toNat_ofNat (packedLength_lt w hh)] at hlt'
    exact hs.of_running ⟨rfl, rfl, rfl, rfl⟩ (by simp [hp]) (by simp [hp]) hs.packed
      (by simpa only [State.phaseInv, hp] using
        ⟨w, hh, f, p, hopen, hframed, ⟨hhdr, hexp⟩, c' + 1, rfl, hlt'⟩)

theorem stepPAck2_inv (hs : s.Inv) (hp : s.phase = .pAck2) (h : stepPAck2 s = .next t) :
    t.Inv := by
  obtain hstop | ⟨_, as, -, ⟨-, rfl⟩ | ⟨-, rfl⟩⟩ := stepPAck2_next h
  · exact hstop.inv hs
  · exact hs.of_done (by simp [hp]) rfl rfl rfl rfl hs.full (by simp) ⟨rfl, rfl, rfl⟩
  · exact (hs.with_rx as).abort (by simp)

/-! ### DECODE and ENCODE (R145, R146) -/

theorem stepCDec_inv (hs : s.Inv) (hp : s.phase = .cDec) (h : stepCDec s = .next t) : t.Inv := by
  obtain ⟨_, _, -, -, ⟨-, rfl⟩ | ⟨f, -, rfl⟩⟩ := stepCDec_next h
  · exact hs.abort (by simp)
  · refine hs.of_done (by simp [hp]) rfl rfl rfl rfl ?_ hs.packed ⟨rfl, rfl, rfl⟩
    rintro m ⟨⟩
    exact Memory.ofBytes_wf f

theorem stepCEnc_inv (hs : s.Inv) (hp : s.phase = .cEnc) (h : stepCEnc s = .next t) : t.Inv := by
  obtain ⟨_, _, -, -, ⟨-, rfl⟩ | ⟨p, -, rfl⟩⟩ := stepCEnc_next h
  · exact hs.abort (by simp)
  · refine hs.of_done (by simp [hp]) rfl rfl rfl rfl hs.full ?_ ⟨rfl, rfl, rfl⟩
    rintro m ⟨⟩
    exact Memory.ofBytes_wf p

/-! ### The sequencer's move -/

theorem fetchSequencer_inv (hs : s.Inv) (h : (fetchSequencer s).outcome = .next t) : t.Inv := by
  rw [outcome_fetchSequencer] at h
  cases hp : s.phase <;> rw [hp] at h
  case idle => cases h; exact hs
  case gCmd => exact stepGCmd_inv hs hp h
  case gAck => exact stepGAck_inv hs hp h
  case gHdr => exact stepGHdr_inv hs hp h
  case gPay => exact stepGPay_inv hs hp h
  case gDec => exact stepGDec_inv hs hp h
  case pPrep => exact stepPPrep_inv hs hp h
  case pCmd => exact stepPCmd_inv hs hp h
  case pAck1 => exact stepPAck1_inv hs hp h
  case pHdr => exact stepPHdr_inv hs hp h
  case pPay => exact stepPPay_inv hs hp h
  case pAck2 => exact stepPAck2_inv hs hp h
  case cDec => exact stepCDec_inv hs hp h
  case cEnc => exact stepCEnc_inv hs hp h

/-! ### START (R149) -/

/-- What START of each operation has checked is what the operation's first phase needs. -/
theorem State.begin_phaseInv (hpresent : s.inputsPresent o = true)
    (hfits : s.inputTooLarge o = false) : (s.begin o).phaseInv := by
  cases o with
  | get => exact ⟨⟨hpresent, rfl, rfl, rfl, rfl, rfl⟩, rfl, rfl, rfl, rfl⟩
  | put =>
    simp only [State.inputsPresent, Bool.and_eq_true, Option.isSome_iff_exists] at hpresent
    obtain ⟨⟨⟨hslot, w, hw⟩, hh, hhh⟩, f, hf⟩ := hpresent
    simp only [State.inputTooLarge, hw, hhh, decide_eq_false_iff_not, not_lt] at hfits
    exact ⟨w, hh, f, ⟨Option.isSome_iff_exists.2 hslot, hw, hhh, hf, rfl, hfits⟩, rfl,
      State.startHdr_put s hw hhh, rfl, rfl⟩
  | decode =>
    simp only [State.inputsPresent, Option.isSome_iff_exists] at hpresent
    obtain ⟨p, hp⟩ := hpresent
    obtain ⟨n, hn, -⟩ := length_of_contentOf hp
    simp only [State.inputTooLarge, hn, decide_eq_false_iff_not, not_lt] at hfits
    exact ⟨rfl, rfl, ⟨rfl, rfl, rfl⟩, n, p, hn, hp, hfits⟩
  | encode =>
    simp only [State.inputsPresent, Option.isSome_iff_exists] at hpresent
    obtain ⟨f, hf⟩ := hpresent
    obtain ⟨n, hn, -⟩ := length_of_contentOf hf
    simp only [State.inputTooLarge, hn, decide_eq_false_iff_not, not_lt] at hfits
    exact ⟨rfl, rfl, ⟨rfl, rfl, rfl⟩, n, f, hn, hf, hfits⟩

theorem start_inv (hs : s.Inv) (h : start o s = .next t) : t.Inv := by
  obtain ⟨-, hpresent, hfits, rfl⟩ := start_next h
  refine ⟨?_, by simp, fun m hm => hs.full m (State.voidFor_full_subset hm),
    fun m hm => hs.packed m (State.voidFor_packed_subset hm), by simpa using hs.capacity,
    State.begin_phaseInv hpresent hfits⟩
  cases o <;> simp [HostOp.firstPhase]

theorem fetchStart_inv (hs : s.Inv) (h : (fetchStart s).outcome = .next t) : t.Inv := by
  rw [outcome_fetchStart] at h
  split at h
  · cases h
  · split at h
    · cases h
    · obtain ⟨o, hstart⟩ | hseq := exec_decodeOpreq_next h
      · exact start_inv hs hstart
      · exact fetchSequencer_inv hs hseq

/-! ### The host port and the reset input -/

/-- A host write that is taken finds the core at rest, and leaves it so: only the buffers' form
needs an argument (R11, R195). -/
theorem State.Inv.of_hostWrite (hs : s.Inv) (hb : s.status ≠ .busy) (hp : t.phase = s.phase)
    (hstatus : t.status = s.status) (herr : t.err = s.err) (hmax : t.maxPix = s.maxPix)
    (hhidden : t.cnt = s.cnt ∧ t.hdr = s.hdr ∧ t.exp = s.exp)
    (hfull : ∀ m, t.full = some m → Memory.wf m)
    (hpacked : ∀ m, t.packed = some m → Memory.wf m) : t.Inv := by
  have hidle := hs.idle_of_not_busy hb
  obtain ⟨hcnt, hhdr, hexp⟩ := hhidden
  refine .of_idle (hp.trans hidle) (hstatus ▸ hb) (by rw [herr, hstatus]; exact hs.err) hfull
    hpacked (hmax ▸ hs.capacity) ?_
  rw [State.hiddenVoid, hcnt, hhdr, hexp]
  exact hs.hiddenVoid hidle

theorem hostWriteReg_inv {n : RegNumber} {v : Len} (hs : s.Inv)
    (h : hostWriteReg n v s = .next t) : t.Inv := by
  obtain ⟨-, hb, rfl | rfl | rfl | rfl | rfl | rfl | rfl⟩ := hostWriteReg_next h <;>
    exact hs.of_hostWrite hb rfl rfl rfl rfl ⟨rfl, rfl, rfl⟩ hs.full hs.packed

/-- A buffer given a canonical content. -/
theorem State.Inv.setBuffer (hs : s.Inv) (hb : s.status ≠ .busy) (buf : Buffer) {m : Memory}
    (hm : Memory.wf m) : (s.setBuffer buf m).Inv := by
  have hnew : ∀ m', some m = some m' → Memory.wf m' := by
    rintro m' ⟨⟩
    exact hm
  cases buf with
  | full => exact hs.of_hostWrite hb rfl rfl rfl rfl ⟨rfl, rfl, rfl⟩ hnew hs.packed
  | packed => exact hs.of_hostWrite hb rfl rfl rfl rfl ⟨rfl, rfl, rfl⟩ hs.full hnew

theorem State.Inv.setLength (hs : s.Inv) (hb : s.status ≠ .busy) (buf : Buffer) (n : Len) :
    (s.setLength buf n).Inv := by
  cases buf <;> exact hs.of_hostWrite hb rfl rfl rfl rfl ⟨rfl, rfl, rfl⟩ hs.full hs.packed

theorem State.Inv.bufferOf (hs : s.Inv) (buf : Buffer) :
    ∀ m, s.bufferOf buf = some m → Memory.wf m := by
  cases buf with
  | full => exact hs.full
  | packed => exact hs.packed

theorem hostWriteByte_inv {buf : Buffer} {i : Len} {b : Byte} (hs : s.Inv)
    (h : hostWriteByte buf i b s = .next t) : t.Inv := by
  obtain ⟨hb, rfl⟩ := hostWriteByte_next h
  exact hs.setBuffer hb buf (Memory.write_getD_wf (hs.bufferOf buf) _ _)

theorem hostLoad_inv {buf : Buffer} {bs : List Byte} (hs : s.Inv)
    (h : hostLoad buf bs s = .next t) : t.Inv := by
  obtain ⟨hb, -, rfl⟩ := hostLoad_next h
  exact (hs.setBuffer hb buf (Memory.ofBytes_wf bs)).setLength (by simpa using hb) buf _

theorem State.Inv.afterReset (hs : s.Inv) : s.afterReset.Inv :=
  .of_idle rfl (by simp) (by simp) (by simp) (by simp) hs.capacity ⟨rfl, rfl, rfl⟩

/-! ### One step -/

theorem fetchInput_inv {i : Input} (hs : s.Inv) (h : (fetchInput i s).outcome = .next t) :
    t.Inv := by
  cases i with
  | proceed => exact fetchSequencer_inv hs h
  | writeReg n v =>
    simp only [fetchInput] at h
    split at h
    · exact fetchStart_inv hs h
    · exact hostWriteReg_inv hs h
  | readReg n =>
    obtain ⟨-, _, v, rfl⟩ := hostReadReg_next h
    exact hs.readValue v
  | writeByte buf k b => exact hostWriteByte_inv hs h
  | readByte buf k =>
    cases h
    exact hs.readValue _
  | load buf bs => exact hostLoad_inv hs h
  | reset =>
    cases h
    exact hs.afterReset

/-- Settles O45, by the next move: the host's, the reset input's, or the sequencer's in its phase.
-/
theorem everyStepKeepsInv : Obligations.EveryStepKeepsInv := by
  intro s t hs h
  cases hi : s.inputs with
  | nil =>
    rw [step_of_no_input hi] at h
    exact fetchSequencer_inv hs h
  | cons i rest =>
    rw [step_of_input hi] at h
    exact fetchInput_inv (hs.with_inputs rest) h

/-- Settles O44: at reset no operation runs and nothing holds a value. -/
theorem resetSatisfiesInv : Obligations.ResetSatisfiesInv :=
  .of_idle rfl (by decide) (by decide) (by simp [State.reset]) (by simp [State.reset]) le_rfl
    ⟨rfl, rfl, rfl⟩

end Sys2Proof.Machine
end

section
/-! PROOFS. The exchanges byte by byte (R125 to R130): what each phase's step does when the
transport answers with a byte or takes one, and the obligations about a single step of a GET or a
PUT. -/

namespace Sys2Proof.Machine

variable {s : State} {o : HostOp} {b : Byte}

/-! ### The abort as an outcome -/

/-- Raising a fault after one answer to `rx` was used up: that answer is all the streams lose. -/
theorem raise_rx_aborted (o : HostOp) (c : ErrCode) (s : State) (as : List RxAnswer) :
    ∃ t, raise o c { s with rx := as } = .next t ∧ t.rx = as ∧ t.tx = s.tx ∧ t.txAns = s.txAns ∧
      State.Aborted o c s t :=
  ⟨_, rfl, by simp, by simp, by simp, State.abort_aborted_rx o c s as⟩

/-- Raising a fault in a compute phase: the streams are untouched. -/
theorem raise_aborted (o : HostOp) (c : ErrCode) (s : State) :
    ∃ t, raise o c s = .next t ∧ t.tx = s.tx ∧ t.txAns = s.txAns ∧ t.rx = s.rx ∧
      State.Aborted o c s t :=
  ⟨_, rfl, by simp, by simp, by simp, State.abort_aborted o c s⟩

/-! ### Acknowledgements (R125, R126) -/

theorem exec_getack_gAck (hp : s.phase = .gAck) : exec .getack s = stepGAck s := if_pos hp

theorem exec_putack_pAck1 (hp : s.phase = .pAck1) : exec .putack s = stepPAck1 s := if_pos hp

theorem exec_putack_pAck2 (hp : s.phase = .pAck2) : exec .putack s = stepPAck2 s := by
  simp [exec, execPutack, hp]

theorem stepGAck_ack {as : List RxAnswer} (hrx : s.rx = .rxByte getAckByte :: as) :
    stepGAck s = .next { s with rx := as, phase := .gHdr, cnt := some 0 } :=
  (withRx_byte hrx).trans (if_pos rfl)

theorem stepGAck_other {as : List RxAnswer} (hrx : s.rx = .rxByte b :: as) (hb : b ≠ getAckByte) :
    stepGAck s = raise .get .protocolViolation { s with rx := as } :=
  (withRx_byte hrx).trans (if_neg hb)

theorem stepPAck1_ack {as : List RxAnswer} {w h : Dim} (hw : s.w = some w) (hh : s.h = some h)
    (hrx : s.rx = .rxByte putAckByte :: as) : stepPAck1 s = .next { s with
      rx := as, phase := .pHdr, cnt := some 0, hdr := Hdr.ofDims w h
      exp := some (BitVec.ofNat 34 (packedLength w h)) } := by
  simp only [stepPAck1, hw, hh, withRx_byte hrx, if_pos]

theorem stepPAck1_other {as : List RxAnswer} {w h : Dim} (hw : s.w = some w) (hh : s.h = some h)
    (hrx : s.rx = .rxByte b :: as) (hb : b ≠ putAckByte) :
    stepPAck1 s = raise .put .protocolViolation { s with rx := as } := by
  simp only [stepPAck1, hw, hh, withRx_byte hrx, if_neg hb]

theorem stepPAck2_ack {as : List RxAnswer} (hrx : s.rx = .rxByte putAckByte :: as) :
    stepPAck2 s = .next (State.voidFor .put { s with rx := as }).finish :=
  (withRx_byte hrx).trans (if_pos rfl)

theorem stepPAck2_other {as : List RxAnswer} (hrx : s.rx = .rxByte b :: as)
    (hb : b ≠ putAckByte) : stepPAck2 s = raise .put .protocolViolation { s with rx := as } :=
  (withRx_byte hrx).trans (if_neg hb)

/-- Settles O18: G_ACK by the byte that arrives. -/
theorem getackChecksTheByte : Obligations.GetackChecksTheByte := by
  intro s b as hp hrx
  rw [exec_getack_gAck hp]
  refine ⟨?_, fun hb => ?_⟩
  · rintro rfl
    exact stepGAck_ack hrx
  · rw [stepGAck_other hrx hb]
    exact raise_rx_aborted _ _ s as

/-- Settles O19: P_ACK1 by the byte that arrives; the payload length fits EXP. -/
theorem firstPutackChecksTheByte : Obligations.FirstPutackChecksTheByte := by
  intro s b as w h hp hrx hw hh
  rw [exec_putack_pAck1 hp]
  refine ⟨?_, fun hb => ?_⟩
  · rintro rfl
    refine ⟨_, len_toNat_ofNat (packedLength_lt w h), ?_⟩
    rw [← Hdr.ofDims_eq]
    exact stepPAck1_ack hw hh hrx
  · rw [stepPAck1_other hw hh hrx hb]
    exact raise_rx_aborted _ _ s as

/-- Settles O20: P_ACK2 by the byte that arrives. -/
theorem secondPutackCompletesThePut : Obligations.SecondPutackCompletesThePut := by
  intro s b as hp hrx
  rw [exec_putack_pAck2 hp]
  refine ⟨?_, fun hb => ?_⟩
  · rintro rfl
    exact stepPAck2_ack hrx
  · rw [stepPAck2_other hrx hb]
    exact raise_rx_aborted _ _ s as

/-- Settles O21: each wire instruction opens with the test of its phase. -/
theorem wireInstrsKeepTheirPhase : Obligations.WireInstrsKeepTheirPhase := by
  intro s
  refine ⟨fun hp => ?_, fun hp => ?_, fun hp => if_neg hp, fun h1 h2 => ?_⟩
  · have hrefused : ∀ k, getCommandInstr k s = .refused .outOfSequence := fun k => if_neg hp
    simp [exec, execGet1, execGet2, execGet3, execGet4, hrefused]
  · have hrefused : ∀ k, putCommandInstr k s = .refused .outOfSequence := fun k => if_neg hp
    simp [exec, execPut1, execPut2, execPut3, execPut4, hrefused]
  · exact (if_neg h1).trans (if_neg h2)

/-! ### The header of a GET (R127, R128) -/

theorem exec_get_gHdr (hp : s.phase = .gHdr) : exec .get s = stepGHdr s := by
  simp only [exec, execGet, hp]

theorem stepGHdr_more {c : Len} {as : List RxAnswer} (hcnt : s.cnt = some c)
    (hrx : s.rx = .rxByte b :: as) (hc : c + 1 ≠ 4) : stepGHdr s = .next { s with
      rx := as, hdr := s.hdr.set c.toNat b, cnt := some (c + 1) } := by
  simp only [stepGHdr, hcnt, withRx_byte hrx, if_neg hc]

theorem stepGHdr_last {as : List RxAnswer} (hcnt : s.cnt = some 3)
    (hrx : s.rx = .rxByte b :: as) : stepGHdr s = headerReceived { s with
      rx := as, hdr := s.hdr.set 3 b, cnt := some 4 } := by
  simp only [stepGHdr, hcnt, withRx_byte hrx]
  rfl

section
variable {w h : Dim} (hdims : s.hdr.dims = some (w, h))
include hdims

theorem headerReceived_zero (hz : zeroDim w h = true) :
    headerReceived s = raise .get .formatError s := by
  simp only [headerReceived, hdims, hz, if_true]

theorem headerReceived_tooLarge (hz : zeroDim w h = false) (hlt : s.maxPix < pixels w h) :
    headerReceived s = .refused .overCapacity := by
  simp [headerReceived, hdims, hz, hlt]

theorem headerReceived_accepted (hz : zeroDim w h = false) (hle : pixels w h ≤ s.maxPix) :
    headerReceived s = .next { s with
      phase := .gPay, cnt := some 0, exp := some (BitVec.ofNat 34 (packedLength w h))
      packed := some [] } := by
  simp [headerReceived, hdims, hz, Nat.not_lt.2 hle]

end

theorem zeroDim_eq_false {w h : Dim} (hw : 0 < w.toNat) (hh : 0 < h.toNat) :
    zeroDim w h = false := by
  rw [Bool.eq_false_iff, ne_eq, zeroDim_iff]
  omega

/-- Settles O26: a byte before the fourth is stored at HDR[CNT]; the fourth completes the header,
which is then judged by its dimensions. -/
theorem getReceivesItsHeader : Obligations.GetReceivesItsHeader := by
  intro s c b as hp hcnt hrx
  rw [exec_get_gHdr hp]
  refine ⟨fun hc => ?_, ?_⟩
  · have hne : c + 1 ≠ 4 := by
      rw [ne_eq, len_succ_eq_iff (e := 4) (by simp; omega)]
      simp
      omega
    exact ⟨_, stepGHdr_more hcnt hrx hne, Hdr.get_set s.hdr (by omega) b⟩
  · intro x0 x1 x2 hc h0 h1 h2 w h hw hh
    obtain rfl : c = 3 := BitVec.eq_of_toNat_eq hc
    have hdims := Hdr.dims_eq_some hw hh
    rw [stepGHdr_last hcnt hrx, Hdr.set_three h0 h1 h2]
    refine ⟨fun hzero => ?_, fun hw0 hh0 hlt => ?_, fun hw0 hh0 hle => ?_⟩
    · rw [headerReceived_zero hdims ((zeroDim_iff w h).2 hzero)]
      exact raise_rx_aborted .get .formatError s as
    · exact headerReceived_tooLarge hdims (zeroDim_eq_false hw0 hh0) hlt
    · exact ⟨_, len_toNat_ofNat (packedLength_lt w h),
        headerReceived_accepted hdims (zeroDim_eq_false hw0 hh0) hle⟩

/-! ### The payload of a GET (R127, R130) -/

theorem exec_get_gPay (hp : s.phase = .gPay) : exec .get s = stepGPay s := by
  simp only [exec, execGet, hp]

theorem stepGPay_byte {c e : Len} {m : Memory} {as : List RxAnswer} (hcnt : s.cnt = some c)
    (hexp : s.exp = some e) (hm : s.packed = some m) (hrx : s.rx = .rxByte b :: as) :
    stepGPay s = .next { s with
      rx := as, packed := some (Memory.write m c.toNat b), cnt := some (c + 1)
      phase := if c + 1 = e then .gDec else s.phase } := by
  simp only [stepGPay, hcnt, hexp, hm, withRx_byte hrx]
  split <;> rfl

/-- Settles O27: CNT does not wrap below EXP, so its test is one of numbers. -/
theorem getReceivesItsPayload : Obligations.GetReceivesItsPayload := by
  intro s c e m b as hp hcnt hexp hm hlt hrx
  refine ⟨_, ?_, fun j => Memory.read_write m c.toNat j b⟩
  rw [exec_get_gPay hp, stepGPay_byte hcnt hexp hm hrx, hp]
  simp only [len_succ_eq_iff hlt]

/-! ### The decode of a GET (R143) -/

theorem exec_get_gDec (hp : s.phase = .gDec) : exec .get s = stepGDec s := by
  simp only [exec, execGet, hp]

theorem decodeBuf_of_length {p : List Byte} (hp : p.length % 4 = 0) :
    decodeBuf p = some (decodeGroups p) := if_pos hp

theorem decodeBuf_none {p : List Byte} (hp : p.length % 4 ≠ 0) : decodeBuf p = none := if_neg hp

theorem encodeBuf_of_length {f : List Byte} (hf : f.length % 6 = 0) :
    encodeBuf f = some (encodeGroups f) := if_pos hf

theorem encodeBuf_none {f : List Byte} (hf : f.length % 6 ≠ 0) : encodeBuf f = none := if_neg hf

section
variable {w h : Dim} {p : List Byte} (hdims : s.hdr.dims = some (w, h))
  (hcontent : contentOf s.cnt s.packed = some p) (hlen : p.length = packedLength w h)
include hdims hcontent hlen

theorem stepGDec_even (heven : pixels w h % 2 = 0) :
    stepGDec s = .next (s.gotFrame w h (decodeGroups p)) := by
  have hmod : p.length % 4 = 0 := by simp only [packedLength] at hlen; omega
  simp [stepGDec, hdims, hcontent, hlen, decodeBuf_of_length hmod]

theorem stepGDec_odd (hodd : pixels w h % 2 = 1) : stepGDec s = raise .get .formatError s := by
  have hmod : p.length % 4 ≠ 0 := by simp only [packedLength] at hlen; omega
  simp [stepGDec, hdims, hcontent, hlen, decodeBuf_none hmod]

end

/-- Settles O28: the payload of an even area is whole groups of four, that of an odd area is not. -/
theorem getDecodesItsPayload : Obligations.GetDecodesItsPayload := by
  intro s w h p hp hdims hcontent hlen
  rw [exec_get_gDec hp]
  refine ⟨fun heven => ?_, fun hodd => ?_⟩
  · have hmod : p.length % 4 = 0 := by omega
    exact ⟨_, _, _, decodeBuf_of_length hmod, Memory.read_ofBytes _,
      len_toNat_ofNat (fullLength_lt w h), stepGDec_even hdims hcontent hlen heven⟩
  · rw [stepGDec_odd hdims hcontent hlen hodd]
    exact raise_rx_aborted .get .formatError s s.rx

/-! ### The header and payload of a PUT (R129) -/

theorem exec_put_pHdr (hp : s.phase = .pHdr) : exec .put s = stepPHdr s := by
  simp only [exec, execPut, hp]

theorem exec_put_pPay (hp : s.phase = .pPay) : exec .put s = stepPPay s := by
  simp only [exec, execPut, hp]

theorem stepPHdr_byte {c : Len} {as : List TxAnswer} (hcnt : s.cnt = some c)
    (hb : s.hdr.get c.toNat = some b) (htx : s.txAns = .txOk :: as) :
    stepPHdr s = .next { s.sent b as with
      cnt := if c + 1 = 4 then some 0 else some (c + 1)
      phase := if c + 1 = 4 then .pPay else s.phase } := by
  simp only [stepPHdr, hcnt, hb, withTx_ok htx]
  split <;> rfl

theorem stepPPay_byte {c e : Len} {m : Memory} {as : List TxAnswer} (hcnt : s.cnt = some c)
    (hexp : s.exp = some e) (hm : s.packed = some m) (hb : Memory.read m c.toNat = some b)
    (htx : s.txAns = .txOk :: as) : stepPPay s = .next { s.sent b as with
      cnt := some (c + 1), phase := if c + 1 = e then .pAck2 else s.phase } := by
  simp only [stepPPay, hcnt, hexp, hm, hb, withTx_ok htx]
  split <;> rfl

/-- Settles O30: in both phases CNT does not wrap below its bound. -/
theorem putSendsItsFrame : Obligations.PutSendsItsFrame := by
  intro s c as hcnt htx
  refine ⟨fun b hp hc hb => ?_, fun b e m hp hexp hm hlt hb => ?_⟩
  · have hlast : c + 1 = 4 ↔ c.toNat = 3 := by
      rw [len_succ_eq_iff (e := 4) hc]
      simp
    rw [exec_put_pHdr hp, stepPHdr_byte hcnt hb htx, hp]
    simp only [hlast, State.sent]
  · rw [exec_put_pPay hp, stepPPay_byte hcnt hexp hm hb htx, hp]
    simp only [len_succ_eq_iff hlt, State.sent]

end Sys2Proof.Machine
end

section
/-! PROOFS. DECODE and ENCODE (R145, R146), and START of each operation (R149). -/

namespace Sys2Proof.Machine

variable {s : State} {o : HostOp}

/-! ### The compute phases of DECODE and ENCODE -/

theorem exec_decode_cDec (hp : s.phase = .cDec) : exec .decode s = stepCDec s := by
  simp only [exec, execDecode, hp]

theorem exec_encode_cEnc (hp : s.phase = .cEnc) : exec .encode s = stepCEnc s := by
  simp only [exec, execEncode, hp]

theorem stepCDec_of_decodeBuf {n : Len} {p f : List Byte} (hn : s.plen = some n)
    (hcontent : contentOf s.plen s.packed = some p) (hf : decodeBuf p = some f) :
    stepCDec s = .next { s.finish with
      full := some (Memory.ofBytes f), flen := some (BitVec.ofNat 34 (n.toNat / 4 * 6)) } := by
  rw [hn] at hcontent
  simp only [stepCDec, hn, hcontent, hf]

theorem stepCDec_none {n : Len} {p : List Byte} (hn : s.plen = some n)
    (hcontent : contentOf s.plen s.packed = some p) (hf : decodeBuf p = none) :
    stepCDec s = raise .decode .formatError s := by
  rw [hn] at hcontent
  simp only [stepCDec, hn, hcontent, hf]

theorem stepCEnc_of_encodeBuf {n : Len} {f p : List Byte} (hn : s.flen = some n)
    (hcontent : contentOf s.flen s.full = some f) (hp : encodeBuf f = some p) :
    stepCEnc s = .next { s.finish with
      packed := some (Memory.ofBytes p), plen := some (BitVec.ofNat 34 (n.toNat / 6 * 4)) } := by
  rw [hn] at hcontent
  simp only [stepCEnc, hn, hcontent, hp]

theorem stepCEnc_none {n : Len} {f : List Byte} (hn : s.flen = some n)
    (hcontent : contentOf s.flen s.full = some f) (hp : encodeBuf f = none) :
    stepCEnc s = raise .encode .formatError s := by
  rw [hn] at hcontent
  simp only [stepCEnc, hn, hcontent, hp]

/-- The content under a length register has the length it says. -/
theorem length_of_contentOf_eq {n : Len} {len : Option Len} {buf : Option Memory}
    {bs : List Byte} (hn : len = some n) (h : contentOf len buf = some bs) :
    bs.length = n.toNat := by
  obtain ⟨n', hn', hlen⟩ := length_of_contentOf h
  obtain rfl : n' = n := by simpa [hn] using hn'.symm
  exact hlen

/-- Settles O31: DECODEBUF's test of its input's length is the test of PLEN. -/
theorem decodeConvertsPacked : Obligations.DecodeConvertsPacked := by
  intro s n p hp hn hcontent hbound
  rw [exec_decode_cDec hp]
  have hlen := length_of_contentOf_eq hn hcontent
  refine ⟨fun hmod => ?_, fun hmod => ?_⟩
  · have hbuf : decodeBuf p = some (decodeGroups p) := decodeBuf_of_length (hlen ▸ hmod)
    exact ⟨_, _, _, hbuf, Memory.read_ofBytes _, len_toNat_ofNat (by omega),
      stepCDec_of_decodeBuf hn hcontent hbuf⟩
  · rw [stepCDec_none hn hcontent (decodeBuf_none (hlen ▸ hmod))]
    exact raise_aborted _ _ s

/-- Settles O32: ENCODEBUF's test of its input's length is the test of FLEN. -/
theorem encodeConvertsFull : Obligations.EncodeConvertsFull := by
  intro s n f hp hn hcontent
  rw [exec_encode_cEnc hp]
  have hlen := length_of_contentOf_eq hn hcontent
  have hfit := n.isLt
  refine ⟨fun hmod => ?_, fun hmod => ?_⟩
  · have hbuf : encodeBuf f = some (encodeGroups f) := encodeBuf_of_length (hlen ▸ hmod)
    exact ⟨_, _, _, hbuf, Memory.read_ofBytes _, len_toNat_ofNat (by omega),
      stepCEnc_of_encodeBuf hn hcontent hbuf⟩
  · rw [stepCEnc_none hn hcontent (encodeBuf_none (hlen ▸ hmod))]
    exact raise_aborted _ _ s

/-! ### START -/

/-- START at rest of an operation whose inputs are there and fit (R149). -/
theorem start_begins (hb : s.status ≠ .busy) (hpresent : s.inputsPresent o = true)
    (hfits : s.inputTooLarge o = false) : start o s = .next (s.begin o) := by
  simp [start, hb, hpresent, hfits]

theorem exec_get_idle (hp : s.phase = .idle) : exec .get s = start .get s := by
  simp only [exec, execGet, hp]

theorem exec_put_idle (hp : s.phase = .idle) : exec .put s = start .put s := by
  simp only [exec, execPut, hp]

theorem exec_decode_idle (hp : s.phase = .idle) : exec .decode s = start .decode s := by
  simp only [exec, execDecode, hp]

theorem exec_encode_idle (hp : s.phase = .idle) : exec .encode s = start .encode s := by
  simp only [exec, execEncode, hp]

theorem start_get {k : Byte} (hb : s.status ≠ .busy) (hslot : s.slot = some k) :
    start .get s = .next (s.begin .get) :=
  start_begins hb (by simp [State.inputsPresent, hslot]) rfl

theorem start_put {k : Byte} {w h : Dim} {f : List Byte} (hb : s.status ≠ .busy)
    (hslot : s.slot = some k) (hw : s.w = some w) (hh : s.h = some h)
    (hcontent : contentOf s.flen s.full = some f) (hfits : pixels w h ≤ s.maxPix) :
    start .put s = .next (s.begin .put) :=
  start_begins hb (by simp [State.inputsPresent, hslot, hw, hh, hcontent])
    (by simpa [State.inputTooLarge, hw, hh] using hfits)

theorem start_decode {n : Len} {p : List Byte} (hb : s.status ≠ .busy) (hn : s.plen = some n)
    (hcontent : contentOf s.plen s.packed = some p) (hfits : n.toNat ≤ 2 * s.maxPix) :
    start .decode s = .next (s.begin .decode) :=
  start_begins hb (by simp only [State.inputsPresent, hcontent, Option.isSome_some])
    (by simpa [State.inputTooLarge, hn] using hfits)

theorem start_encode {n : Len} {f : List Byte} (hb : s.status ≠ .busy) (hn : s.flen = some n)
    (hcontent : contentOf s.flen s.full = some f) (hfits : n.toNat ≤ 3 * s.maxPix) :
    start .encode s = .next (s.begin .encode) :=
  start_begins hb (by simp only [State.inputsPresent, hcontent, Option.isSome_some])
    (by simpa [State.inputTooLarge, hn] using hfits)

/-- What START of a PUT leaves, the header of its W and H built (R23, R29, R149). -/
theorem State.begin_put_eq {w h : Dim} (hw : s.w = some w) (hh : s.h = some h) :
    s.begin .put = { s with
      plen := none, packed := none, cnt := none, exp := none, hdr := Hdr.ofDims w h
      err := .none, status := .busy, phase := .pPrep } := by
  rw [← State.startHdr_put s hw hh]
  rfl

/-- Settles O33: at rest the operation's meaning is its START, whose checks the premises pass. -/
theorem startBeginsTheOperation : Obligations.StartBeginsTheOperation := by
  intro s hp hb
  refine ⟨fun k hslot => ?_, fun k w h f hslot hw hh hcontent hfits => ?_,
    fun n p hn hcontent hfits => ?_, fun n f hn hcontent hfits => ?_⟩
  · exact (exec_get_idle hp).trans (start_get hb hslot)
  · rw [exec_put_idle hp, start_put hb hslot hw hh hcontent hfits, State.begin_put_eq hw hh,
      Hdr.ofDims_eq]
  · exact (exec_decode_idle hp).trans (start_decode hb hn hcontent hfits)
  · exact (exec_encode_idle hp).trans (start_encode hb hn hcontent hfits)

end Sys2Proof.Machine
end

section
/-! PROOFS. The host port and the reset input (R11, R25, R27, R30, R195): what a step does whose
next move is a host's write or read, or the reset. -/

namespace Sys2Proof.Machine

variable {s : State}

/-! ### Register writes -/

theorem step_start {v : Len} {rest : List Input} (hi : s.inputs = .writeReg 0 v :: rest)
    (hv : v.getLsbD 0 = true) : step s = (fetchStart { s with inputs := rest }).outcome := by
  simp only [step_of_input hi, fetchInput, isStart, hv, BEq.rfl, Bool.and_self, if_true]

theorem step_writeReg {n : RegNumber} {v : Len} {rest : List Input}
    (hi : s.inputs = .writeReg n v :: rest) (hn : isStart n v = false) :
    step s = hostWriteReg n v { s with inputs := rest } := by
  simp only [step_of_input hi, fetchInput, hn]
  rfl

theorem isStart_of_ne {n : RegNumber} (hn : n ≠ 0) (v : Len) : isStart n v = false := by
  rw [isStart, beq_false_of_ne hn, Bool.false_and]

/-- What a write of each register number leaves, the core not BUSY: registers 1 to 6 take their low
bits, CTRL, STATUS and ERR nothing (R11). -/
theorem hostWriteReg_accepted (hb : s.status ≠ .busy) (v : Len) :
    hostWriteReg 1 v s = .next { s with op := some (v.setWidth 2) } ∧
    hostWriteReg 2 v s = .next { s with slot := some (v.setWidth 8) } ∧
    hostWriteReg 3 v s = .next { s with w := some (v.setWidth 16) } ∧
    hostWriteReg 4 v s = .next { s with h := some (v.setWidth 16) } ∧
    hostWriteReg 5 v s = .next { s with flen := some v } ∧
    hostWriteReg 6 v s = .next { s with plen := some v } ∧
    hostWriteReg 7 v s = .next s ∧ hostWriteReg 8 v s = .next s ∧
    hostWriteReg 0 v s = .next s := by
  simp [hostWriteReg, hb]

/-- Settles O36: the move is no START, and the low bits are the register's own width. -/
theorem hostWritesOneRegister : Obligations.HostWritesOneRegister := by
  intro s v rest hb
  obtain ⟨h1, h2, h3, h4, h5, h6, h7, h8, h0⟩ :=
    hostWriteReg_accepted (s := { s with inputs := rest }) hb v
  rw [BitVec.setWidth_eq_extractLsb' (by decide)] at h1 h2 h3 h4
  refine ⟨fun hi => ?_, fun hi => ?_, fun hi => ?_, fun hi => ?_, fun hi => ?_, fun hi => ?_, ?_,
    fun hi hv => ?_⟩
  · exact (step_writeReg hi (isStart_of_ne (by decide) v)).trans h1
  · exact (step_writeReg hi (isStart_of_ne (by decide) v)).trans h2
  · exact (step_writeReg hi (isStart_of_ne (by decide) v)).trans h3
  · exact (step_writeReg hi (isStart_of_ne (by decide) v)).trans h4
  · exact (step_writeReg hi (isStart_of_ne (by decide) v)).trans h5
  · exact (step_writeReg hi (isStart_of_ne (by decide) v)).trans h6
  · rintro (hi | hi)
    · exact (step_writeReg hi (isStart_of_ne (by decide) v)).trans h7
    · exact (step_writeReg hi (isStart_of_ne (by decide) v)).trans h8
  · exact (step_writeReg hi (by simp only [isStart, hv, Bool.and_false])).trans h0

/-! ### Reads -/

/-- A free value cut to a register's width and laid out on the port. -/
theorem setWidth_setWidth_eq_mod (k : Nat) (x : Len) :
    (x.setWidth k).setWidth 34 = BitVec.ofNat 34 (x.toNat % 2 ^ k) := by
  apply BitVec.eq_of_toNat_eq
  simp only [BitVec.toNat_setWidth, BitVec.toNat_ofNat]

theorem next_readValue_none {k : Nat} {v : Option (BitVec k)} (hv : v = none) (s : State) :
    (.next (s.readValue v) : Result) = .next { s with
      freeCtr := s.freeCtr + 1
      rdata := some (BitVec.ofNat 34 ((Config.freeRead s.freeCtr).toNat % 2 ^ k)) } := by
  subst hv
  rw [← setWidth_setWidth_eq_mod]
  rfl

theorem next_readValue_some {k : Nat} {v : Option (BitVec k)} {x : BitVec k} {y : Len}
    (hv : v = some x) (hy : x.setWidth 34 = y) (s : State) :
    (.next (s.readValue v) : Result) = .next { s with rdata := some y } := by
  subst hv hy
  rfl

theorem setWidth_statusCode (c : Status) : c.code.setWidth 34 =
    match c with | .idle => 0 | .busy => 1 | .done => 2 | .error => 3 := by
  cases c <;> rfl

theorem setWidth_errCode (c : ErrCode) : c.code.setWidth 34 =
    match c with
    | .none => 0
    | .invalidSlot => 1
    | .protocolViolation => 2
    | .formatError => 3
    | .transportTimeout => 4
    | .transportError => 5 := by
  cases c <;> rfl

/-- Settles O37, by the register number: a register that holds a value shows it, one that holds none
takes the free value. -/
theorem hostReadsAtAnyTime : Obligations.HostReadsAtAnyTime := by
  intro s rest n hi
  rw [step_readReg hi]
  refine ⟨?_, ?_, ?_, ?_, ?_, ?_, ?_, ?_, ?_, ?_⟩
  · rintro rfl
    rfl
  · rintro o rfl hv
    exact next_readValue_some hv rfl _
  · rintro k rfl hv
    exact next_readValue_some hv rfl _
  · rintro w rfl hv
    exact next_readValue_some hv rfl _
  · rintro h rfl hv
    exact next_readValue_some hv rfl _
  · rintro l rfl hv
    exact next_readValue_some hv (BitVec.setWidth_eq l) _
  · rintro l rfl hv
    exact next_readValue_some hv (BitVec.setWidth_eq l) _
  · rintro rfl
    exact next_readValue_some rfl (setWidth_statusCode s.status) _
  · rintro rfl
    exact next_readValue_some rfl (setWidth_errCode s.err) _
  · rintro d (⟨rfl, hv, rfl⟩ | ⟨rfl, hv, rfl⟩ | ⟨rfl, hv, rfl⟩ | ⟨rfl, hv, rfl⟩ | ⟨rfl, hv, rfl⟩ |
      ⟨rfl, hv, rfl⟩)
    all_goals exact next_readValue_none hv _

/-! ### The buffer windows -/

theorem step_writeByte {buf : Buffer} {i : Len} {b : Byte} {rest : List Input}
    (hi : s.inputs = .writeByte buf i b :: rest) (hb : s.status ≠ .busy) :
    step s = .next (State.setBuffer buf (Memory.write ((s.bufferOf buf).getD []) i.toNat b)
      { s with inputs := rest }) := by
  cases buf <;> exact (step_of_input hi).trans (if_neg hb)

/-- A byte write into a buffer, an absent one counting as holding no byte. -/
theorem Memory.read_write_getD (buf : Option Memory) (k j : Nat) (v : Byte) :
    Memory.read (Memory.write (buf.getD []) k v) j =
      if j = k then some v else buf.bind fun m => Memory.read m j := by
  rw [Memory.read_write]
  cases buf <;> rfl

theorem State.windowByte_eq_some {buf : Buffer} {i n : Len} {m : Memory} {b : Byte}
    (hn : s.lengthOf buf = some n) (hm : s.bufferOf buf = some m) (hlt : i.toNat < n.toNat)
    (hb : Memory.read m i.toNat = some b) : s.windowByte buf i = some b := by
  simp [State.windowByte, hn, hm, hlt, hb]

theorem State.windowByte_eq_none {buf : Buffer} {i : Len}
    (h : s.lengthOf buf = none ∨ s.bufferOf buf = none ∨
      (∃ n, s.lengthOf buf = some n ∧ n.toNat ≤ i.toNat) ∨
      ∃ m, s.bufferOf buf = some m ∧ Memory.read m i.toNat = none) :
    s.windowByte buf i = none := by
  unfold State.windowByte
  split
  · rename_i n m hn hm
    obtain h | h | ⟨n', hn', hle⟩ | ⟨m', hm', hread⟩ := h
    · simp [hn] at h
    · simp [hm] at h
    · obtain rfl : n' = n := by simpa [hn'] using hn
      exact if_neg (by omega)
    · obtain rfl : m' = m := by simpa [hm'] using hm
      simp [hread]
  · rfl

theorem step_readByte_some {buf : Buffer} {i : Len} {b : Byte} {rest : List Input}
    (hi : s.inputs = .readByte buf i :: rest) (hv : s.windowByte buf i = some b) :
    step s = .next { s with inputs := rest, rdata := some (b.setWidth 34) } :=
  (step_readByte hi).trans (next_readValue_some hv rfl _)

theorem step_readByte_none {buf : Buffer} {i : Len} {rest : List Input}
    (hi : s.inputs = .readByte buf i :: rest) (hv : s.windowByte buf i = none) :
    step s = .next { s with
      inputs := rest, freeCtr := s.freeCtr + 1
      rdata := some (BitVec.ofNat 34 ((Config.freeRead s.freeCtr).toNat % 256)) } :=
  (step_readByte hi).trans (next_readValue_none hv _)

/-- Settles O38: a write by what one write of a buffer leaves, a read by what the window shows. -/
theorem hostUsesTheWindows : Obligations.HostUsesTheWindows := by
  intro s rest i b
  refine ⟨fun hb hi => ?_, fun hb hi => ?_, fun n m hi hn hm hlt hread => ?_,
    fun n m hi hn hm hlt hread => ?_, fun hi habsent => ?_, fun hi habsent => ?_⟩
  · exact ⟨_, step_writeByte hi hb, fun j => Memory.read_write_getD s.full _ j b⟩
  · exact ⟨_, step_writeByte hi hb, fun j => Memory.read_write_getD s.packed _ j b⟩
  · exact step_readByte_some hi (State.windowByte_eq_some (buf := .full) hn hm hlt hread)
  · exact step_readByte_some hi (State.windowByte_eq_some (buf := .packed) hn hm hlt hread)
  · exact step_readByte_none hi (State.windowByte_eq_none (buf := .full) habsent)
  · exact step_readByte_none hi (State.windowByte_eq_none (buf := .packed) habsent)

/-! ### What is refused, and what faults -/

theorem fetchStart_busy (hb : s.status = .busy) :
    (fetchStart s).outcome = .refused .hostWhileBusy := by
  rw [outcome_fetchStart, if_pos hb]

theorem hostWriteReg_busy {n : RegNumber} (hn : n.toNat ≤ 8) (v : Len) (hb : s.status = .busy) :
    hostWriteReg n v s = .refused .hostWhileBusy :=
  (if_neg (by omega)).trans (if_pos hb)

/-- Settles O40: START, the register write, the byte write and the load each test for BUSY. -/
theorem hostWritesRefusedWhileBusy : Obligations.HostWritesRefusedWhileBusy := by
  rintro s i rest hb hi (⟨n, v, rfl, hn⟩ | ⟨buf, k, b, rfl⟩ | ⟨buf, bs, rfl⟩)
  · rw [step_of_input hi]
    simp only [fetchInput]
    split
    · exact fetchStart_busy hb
    · exact hostWriteReg_busy hn v hb
  · exact (step_of_input hi).trans (if_pos hb)
  · exact (step_of_input hi).trans (if_pos hb)

/-- Settles O41: a number above 8 is no START and none of the nine registers. -/
theorem noRegisterBeyondEight : Obligations.NoRegisterBeyondEight := by
  intro s n v rest hn
  have hne : ∀ k : RegNumber, k.toNat ≤ 8 → n ≠ k := by
    rintro k hk rfl
    omega
  refine ⟨fun hi => ?_, fun hi => ?_⟩
  · exact (step_writeReg hi (isStart_of_ne (hne 0 (by decide)) v)).trans (if_pos (by omega))
  · rw [step_readReg hi]
    simp [hostReadReg, hne]

/-- Settles O43: the reset move, in any state. -/
theorem resetFromAnyState : Obligations.ResetFromAnyState :=
  fun _ _ hi => step_of_input hi

end Sys2Proof.Machine
end

section
/-! PROOFS. Which instruction a step runs (R21, R120, R121, R149). -/

namespace Sys2Proof.Machine

variable {s : State}

/-- The four OP codes as bytes decode to their operations (R13, R68). -/
theorem decode_opByte (o : OpCode) : decode [o.setWidth 8] = .ok (decodeOpreq o, []) := by
  have hcases : o = 0 ∨ o = 1 ∨ o = 2 ∨ o = 3 := by
    revert o
    decide
  rcases hcases with rfl | rfl | rfl | rfl <;> rfl

theorem step_start_op {v : Len} {rest : List Input} {o : OpCode}
    (hi : s.inputs = .writeReg 0 v :: rest) (hv : v.getLsbD 0 = true) (hb : s.status ≠ .busy)
    (hop : s.op = some o) : step s = exec (decodeOpreq o) { s with inputs := rest } := by
  rw [step_start hi hv, outcome_fetchStart]
  simp only [hop, if_neg hb]

theorem commandInstr_of_decode {whole i : Instr} {c : Byte} (h : decode [c] = .ok (i, [])) :
    commandInstr whole (some c) = i := by
  simp only [commandInstr, h]

/-- The instruction of the sequencer's next move, where PHASE names one (R21). -/
theorem step_current {i : Instr} (hi : s.inputs = []) (hcur : s.current = some i) :
    step s = exec i s := by
  simp only [step_of_no_input hi, fetchSequencer, hcur, Turn.outcome]

/-- Settles O35: START by OP's byte, the sequencer's move by `State.current`, phase by phase. -/
theorem stepRunsTheDecodedInstr : Obligations.StepRunsTheDecodedInstr := by
  intro s
  refine ⟨fun v rest o i hi hv hb hop hdec => ?_, fun hi => ⟨?_, ?_, ?_, ?_, ?_, ?_, ?_, ?_, ?_⟩⟩
  · rw [decode_opByte] at hdec
    cases hdec
    exact step_start_op hi hv hb hop
  · intro k c i hp hslot hc hdec
    have hcur : commandInstr .get (s.slot.bind getCommand) = i := by
      rw [hslot, Option.bind_some, hc, commandInstr_of_decode hdec]
    have hexec : exec i s = stepGCmd s := hcur ▸ exec_getCommandInstr hp
    exact ⟨step_current hi (by simp only [State.current, hp, hcur]),
      hexec.trans (by simp only [exec, execGet, hp])⟩
  · intro k c i hp hslot hc hdec
    have hcur : commandInstr .put (s.slot.bind putCommand) = i := by
      rw [hslot, Option.bind_some, hc, commandInstr_of_decode hdec]
    have hexec : exec i s = stepPCmd s := hcur ▸ exec_putCommandInstr hp
    exact ⟨step_current hi (by simp only [State.current, hp, hcur]),
      hexec.trans (by simp only [exec, execPut, hp])⟩
  · intro hp
    exact ⟨step_current hi (by simp only [State.current, hp]),
      (exec_getack_gAck hp).trans (by simp only [exec, execGet, hp])⟩
  · rintro (hp | hp)
    · exact ⟨step_current hi (by simp only [State.current, hp]),
        (exec_putack_pAck1 hp).trans (by simp only [exec, execPut, hp])⟩
    · exact ⟨step_current hi (by simp only [State.current, hp]),
        (exec_putack_pAck2 hp).trans (by simp only [exec, execPut, hp])⟩
  · rintro (hp | hp | hp) <;> exact step_current hi (by simp only [State.current, hp])
  · rintro (hp | hp | hp) <;> exact step_current hi (by simp only [State.current, hp])
  · exact fun hp => step_current hi (by simp only [State.current, hp])
  · exact fun hp => step_current hi (by simp only [State.current, hp])
  · intro hp
    rw [step_of_no_input hi, outcome_fetchSequencer, hp]

end Sys2Proof.Machine
end

section
/-! PROOFS. A running operation (R12, R17, R28, R29): what any move leaves of its inputs, how it can
reach DONE, and that its results are not there before. -/

namespace Sys2Proof.Machine

variable {s t : State} {o : HostOp}

/-! ### A step while an operation runs: the reset input, a host read, or the sequencer's move -/

/-- Every host write and START is refused while BUSY, so three kinds of step are left (R11, R195).
-/
theorem step_while_busy (hb : s.status = .busy) (h : step s = .next t) :
    (∃ rest, s.inputs = .reset :: rest ∧ t = State.afterReset { s with inputs := rest }) ∨
      (∃ (is : List Input) (k : Nat) (v : Option (BitVec k)),
        t = State.readValue v { s with inputs := is }) ∨
      ∃ is, (fetchSequencer { s with inputs := is }).outcome = .next t := by
  rcases hi : s.inputs with _ | ⟨i, rest⟩
  · refine .inr (.inr ⟨[], ?_⟩)
    rw [← h, step_of_no_input hi, ← hi]
  have hb' : State.status { s with inputs := rest } = .busy := hb
  rw [step_of_input hi] at h
  cases i with
  | proceed => exact .inr (.inr ⟨rest, h⟩)
  | writeReg n v =>
    simp only [fetchInput] at h
    split at h
    · rw [fetchStart_busy hb'] at h
      cases h
    · obtain ⟨-, hne, -⟩ := hostWriteReg_next h
      exact absurd hb' hne
  | readReg n =>
    obtain ⟨-, k, v, rfl⟩ := hostReadReg_next h
    exact .inr (.inl ⟨rest, k, v, rfl⟩)
  | writeByte buf k b => exact absurd hb' (hostWriteByte_next h).1
  | readByte buf k =>
    cases h
    exact .inr (.inl ⟨rest, 8, _, rfl⟩)
  | load buf bs => exact absurd hb' (hostLoad_next h).1
  | reset =>
    cases h
    exact .inl ⟨rest, rfl, rfl⟩

/-! ### The sequencer's move of a running operation -/

/-- The operation goes on, waits or aborts, its inputs kept. -/
def State.Moved (o : HostOp) (s t : State) : Prop :=
  State.InputsKept o s t ∧ t.status ≠ .done

/-- How each operation reaches DONE: from its last phase, a PUT on the byte 0xAC, a GET and a PUT
with PACKED and PLEN void (R17, R29). -/
def State.DoneBy (o : HostOp) (s t : State) : Prop :=
  State.InputsKept o s t ∧
    match o with
    | .get => t.packed = none ∧ t.plen = none
    | .put => s.phase = .pAck2 ∧ s.rx = .rxByte putAckByte :: t.rx ∧
        t.packed = none ∧ t.plen = none
    | .decode => True
    | .encode => True

theorem State.abort_moved (o : HostOp) (c : ErrCode) (s : State) : State.Moved o s (s.abort o c) :=
  ⟨(State.abort_aborted o c s).inputs, by simp⟩

theorem State.moved_refl (hb : s.status = .busy) : State.Moved o s s :=
  ⟨by cases o <;> simp [State.InputsKept], by simp [hb]⟩

theorem TxStops.moved (hstop : TxStops o s t) (hb : s.status = .busy) : State.Moved o s t := by
  obtain ⟨-, rfl⟩ | ⟨_, as, c, -, -, rfl⟩ := hstop
  · exact State.moved_refl hb
  · exact ⟨(State.abort_aborted_txAns o c s as).inputs, by simp⟩

theorem RxStops.moved (hstop : RxStops o s t) (hb : s.status = .busy) : State.Moved o s t := by
  obtain ⟨-, rfl⟩ | ⟨_, as, c, -, -, rfl⟩ := hstop
  · exact State.moved_refl hb
  · exact ⟨(State.abort_aborted_rx o c s as).inputs, by simp⟩

/-- A GET's inputs are OP and SLOT. -/
theorem State.moved_get (hb : s.status = .busy) (hop : t.op = s.op) (hslot : t.slot = s.slot)
    (hstatus : t.status = s.status) : State.Moved .get s t :=
  ⟨⟨hop, hslot, trivial⟩, by simp [hstatus, hb]⟩

/-- A PUT's inputs are OP, SLOT, W, H, FLEN and FULL. -/
theorem State.moved_put (hb : s.status = .busy)
    (hkept : State.InputsKept .put s t) (hstatus : t.status = s.status) : State.Moved .put s t :=
  ⟨hkept, by simp [hstatus, hb]⟩

section
variable (hb : s.status = .busy)
include hb

theorem stepGCmd_moved (h : stepGCmd s = .next t) : State.Moved .get s t := by
  obtain ⟨_, -, ⟨-, rfl⟩ | ⟨_, -, hstop | ⟨_, -, rfl⟩⟩⟩ := stepGCmd_next h
  · exact State.abort_moved _ _ s
  · exact hstop.moved hb
  · exact State.moved_get hb rfl rfl rfl

theorem stepGAck_moved (h : stepGAck s = .next t) : State.Moved .get s t := by
  obtain hstop | ⟨_, as, -, ⟨-, rfl⟩ | ⟨-, rfl⟩⟩ := stepGAck_next h
  · exact hstop.moved hb
  · exact State.moved_get hb rfl rfl rfl
  · exact State.abort_moved _ _ { s with rx := as }

theorem stepGHdr_moved (h : stepGHdr s = .next t) : State.Moved .get s t := by
  obtain ⟨_, -, hstop | ⟨_, as, -, ⟨-, hend⟩ | ⟨-, rfl⟩⟩⟩ := stepGHdr_next h
  · exact hstop.moved hb
  · obtain ⟨_, _, -, ⟨-, rfl⟩ | ⟨-, -, rfl⟩⟩ := headerReceived_next hend
    · exact State.abort_moved .get _ { s with rx := as }
    · exact State.moved_get hb rfl rfl rfl
  · exact State.moved_get hb rfl rfl rfl

theorem stepGPay_moved (h : stepGPay s = .next t) : State.Moved .get s t := by
  obtain ⟨_, _, _, -, -, -, hstop | ⟨_, _, -, rfl⟩⟩ := stepGPay_next h
  · exact hstop.moved hb
  · exact State.moved_get hb rfl rfl rfl

omit hb in
theorem stepGDec_moved (h : stepGDec s = .next t) :
    State.Moved .get s t ∨ State.DoneBy .get s t := by
  obtain ⟨_, _, _, -, -, ⟨-, rfl⟩ | ⟨_, -, -, rfl⟩⟩ := stepGDec_next h
  · exact .inl (State.abort_moved _ _ s)
  · exact .inr ⟨⟨rfl, rfl, trivial⟩, rfl, rfl⟩

theorem stepPPrep_moved (h : stepPPrep s = .next t) : State.Moved .put s t := by
  obtain ⟨_, _, _, _, -, -, -, -, ⟨-, rfl⟩ | ⟨_, -, -, -, -, rfl⟩⟩ := stepPPrep_next h
  · exact State.abort_moved _ _ s
  · exact State.moved_put hb ⟨rfl, rfl, rfl, rfl, rfl, rfl⟩ rfl

theorem stepPCmd_moved (h : stepPCmd s = .next t) : State.Moved .put s t := by
  obtain ⟨_, -, ⟨-, rfl⟩ | ⟨_, -, hstop | ⟨_, -, rfl⟩⟩⟩ := stepPCmd_next h
  · exact State.abort_moved _ _ s
  · exact hstop.moved hb
  · exact State.moved_put hb ⟨rfl, rfl, rfl, rfl, rfl, rfl⟩ rfl

theorem stepPAck1_moved (h : stepPAck1 s = .next t) : State.Moved .put s t := by
  obtain ⟨_, _, -, -, hstop | ⟨_, as, -, ⟨-, rfl⟩ | ⟨-, rfl⟩⟩⟩ := stepPAck1_next h
  · exact hstop.moved hb
  · exact State.moved_put hb ⟨rfl, rfl, rfl, rfl, rfl, rfl⟩ rfl
  · exact State.abort_moved .put _ { s with rx := as }

theorem stepPHdr_moved (h : stepPHdr s = .next t) : State.Moved .put s t := by
  obtain ⟨_, _, -, -, hstop | ⟨_, -, ⟨-, rfl⟩ | ⟨-, rfl⟩⟩⟩ := stepPHdr_next h
  · exact hstop.moved hb
  · exact State.moved_put hb ⟨rfl, rfl, rfl, rfl, rfl, rfl⟩ rfl
  · exact State.moved_put hb ⟨rfl, rfl, rfl, rfl, rfl, rfl⟩ rfl

theorem stepPPay_moved (h : stepPPay s = .next t) : State.Moved .put s t := by
  obtain ⟨_, _, _, _, -, -, -, -, hstop | ⟨_, -, rfl⟩⟩ := stepPPay_next h
  · exact hstop.moved hb
  · exact State.moved_put hb ⟨rfl, rfl, rfl, rfl, rfl, rfl⟩ rfl

theorem stepPAck2_moved (hp : s.phase = .pAck2) (h : stepPAck2 s = .next t) :
    State.Moved .put s t ∨ State.DoneBy .put s t := by
  obtain hstop | ⟨_, as, hrx, ⟨rfl, rfl⟩ | ⟨-, rfl⟩⟩ := stepPAck2_next h
  · exact .inl (hstop.moved hb)
  · exact .inr ⟨⟨rfl, rfl, rfl, rfl, rfl, rfl⟩, hp, hrx, rfl, rfl⟩
  · exact .inl (State.abort_moved .put _ { s with rx := as })

omit hb in
theorem stepCDec_moved (h : stepCDec s = .next t) :
    State.Moved .decode s t ∨ State.DoneBy .decode s t := by
  obtain ⟨_, _, -, -, ⟨-, rfl⟩ | ⟨_, -, rfl⟩⟩ := stepCDec_next h
  · exact .inl (State.abort_moved _ _ s)
  · exact .inr ⟨⟨rfl, rfl, rfl, rfl, rfl, rfl⟩, trivial⟩

omit hb in
theorem stepCEnc_moved (h : stepCEnc s = .next t) :
    State.Moved .encode s t ∨ State.DoneBy .encode s t := by
  obtain ⟨_, _, -, -, ⟨-, rfl⟩ | ⟨_, -, rfl⟩⟩ := stepCEnc_next h
  · exact .inl (State.abort_moved _ _ s)
  · exact .inr ⟨⟨rfl, rfl, rfl, rfl, rfl, rfl⟩, trivial⟩

/-- The sequencer's move of a running operation, phase by phase. -/
theorem fetchSequencer_moved (ho : s.phase.op = some o)
    (h : (fetchSequencer s).outcome = .next t) : State.Moved o s t ∨ State.DoneBy o s t := by
  rw [outcome_fetchSequencer] at h
  cases hp : s.phase <;> rw [hp] at h ho <;> cases ho
  case gCmd => exact .inl (stepGCmd_moved hb h)
  case gAck => exact .inl (stepGAck_moved hb h)
  case gHdr => exact .inl (stepGHdr_moved hb h)
  case gPay => exact .inl (stepGPay_moved hb h)
  case gDec => exact stepGDec_moved h
  case pPrep => exact .inl (stepPPrep_moved hb h)
  case pCmd => exact .inl (stepPCmd_moved hb h)
  case pAck1 => exact .inl (stepPAck1_moved hb h)
  case pHdr => exact .inl (stepPHdr_moved hb h)
  case pPay => exact .inl (stepPPay_moved hb h)
  case pAck2 => exact stepPAck2_moved hb hp h
  case cDec => exact stepCDec_moved h
  case cEnc => exact stepCEnc_moved h

/-- Any step of a running operation: the reset input, or one that keeps its inputs and reaches DONE
only as `State.DoneBy` says. -/
theorem step_moved (ho : s.phase.op = some o) (h : step s = .next t) :
    (∃ rest, s.inputs = .reset :: rest ∧ t = State.afterReset { s with inputs := rest }) ∨
      State.Moved o s t ∨ State.DoneBy o s t := by
  obtain hreset | ⟨is, k, v, rfl⟩ | ⟨is, hseq⟩ := step_while_busy hb h
  · exact .inl hreset
  · refine .inr (.inl ⟨?_, by simp [hb]⟩)
    cases o <;> simp [State.InputsKept]
  · exact .inr (fetchSequencer_moved (s := { s with inputs := is }) hb ho hseq)

/-- A step to DONE is the completion of the operation that runs. -/
theorem step_done (ho : s.phase.op = some o) (h : step s = .next t) (hdone : t.status = .done) :
    State.DoneBy o s t := by
  obtain ⟨_, -, rfl⟩ | ⟨-, hne⟩ | hby := step_moved hb ho h
  · cases hdone
  · exact absurd hdone hne
  · exact hby

end

/-- Settles O49: a PUT reaches DONE by the second acknowledgement alone. -/
theorem putDoneNeedsTheSecondAck : Obligations.PutDoneNeedsTheSecondAck := by
  intro s t hs ho h hdone
  obtain ⟨-, hphase, hrx, -⟩ := step_done (hs.busy_of_op ho) ho h hdone
  exact ⟨hphase, hrx⟩

/-- Settles O51: going on, aborting and completing each keep the inputs. -/
theorem runningOperationKeepsItsInputs : Obligations.RunningOperationKeepsItsInputs := by
  intro s t o hs ho hreset h
  obtain ⟨rest, hi, -⟩ | ⟨hkept, -⟩ | ⟨hkept, -⟩ := step_moved (hs.busy_of_op ho) ho h
  · exact absurd hi (hreset rest)
  · exact hkept
  · exact hkept

/-! ### Results before DONE -/

theorem State.Inv.getOpen (hs : s.Inv) (ho : s.phase.op = some .get) : s.getOpen := by
  have hphase := hs.phase
  rw [State.phaseInv] at hphase
  cases hp : s.phase <;> rw [hp] at hphase ho <;> cases ho
  all_goals exact hphase.1

theorem State.Inv.putOpen (hs : s.Inv) (ho : s.phase.op = some .put) :
    ∃ w h f, s.putOpen w h f := by
  have hphase := hs.phase
  rw [State.phaseInv] at hphase
  cases hp : s.phase <;> rw [hp] at hphase ho <;> cases ho
  case pPrep =>
    obtain ⟨w, h, f, hopen, -⟩ := hphase
    exact ⟨w, h, f, hopen⟩
  all_goals
    obtain ⟨w, h, f, _, hopen, -⟩ := hphase
    exact ⟨w, h, f, hopen⟩

theorem State.Inv.decodeOpen (hs : s.Inv) (ho : s.phase.op = some .decode) :
    s.flen = none ∧ s.full = none := by
  have hphase := hs.phase
  rw [State.phaseInv] at hphase
  cases hp : s.phase <;> rw [hp] at hphase ho <;> cases ho
  obtain ⟨hflen, hfull, -⟩ := hphase
  exact ⟨hflen, hfull⟩

theorem State.Inv.encodeOpen (hs : s.Inv) (ho : s.phase.op = some .encode) :
    s.plen = none ∧ s.packed = none := by
  have hphase := hs.phase
  rw [State.phaseInv] at hphase
  cases hp : s.phase <;> rw [hp] at hphase ho <;> cases ho
  obtain ⟨hplen, hpacked, -⟩ := hphase
  exact ⟨hplen, hpacked⟩

/-- Settles O52: the invariant of the running phases, and how an exchange reaches DONE. -/
theorem noPartialResult : Obligations.NoPartialResult := by
  intro s hs
  refine ⟨fun ho => (hs.getOpen ho).2, fun ho => ?_, hs.decodeOpen, hs.encodeOpen, ?_⟩
  · obtain ⟨_, _, _, -, -, -, -, hplen, -⟩ := hs.putOpen ho
    exact hplen
  · rintro t (ho | ho) h hdone
    · obtain ⟨-, hvoid⟩ := step_done (hs.busy_of_op ho) ho h hdone
      exact hvoid
    · obtain ⟨-, -, -, hvoid⟩ := step_done (hs.busy_of_op ho) ho h hdone
      exact hvoid

end Sys2Proof.Machine
end

section
/-! PROOFS. Whole operations, from START to the end (R127, R129, R143, R144): the runs of the phases
one after the other, each with its frame. -/

namespace Sys2Proof.Machine

variable {s t u : State}

/-! ### Runs -/

/-- `n` steps lead from `s` to `t`. -/
def State.Runs (n : Nat) (s t : State) : Prop := Host.Core.run Sys2Proof.core n s = .next t

theorem State.runs_one (h : step s = .next t) : State.Runs 1 s t := by
  have hcore : Sys2Proof.core.step s = .next t := h
  simp only [State.Runs, Host.Core.run, hcore]

theorem State.Runs.trans {m n : Nat} (h₁ : State.Runs m s t) (h₂ : State.Runs n t u) :
    State.Runs (m + n) s u := by
  induction m generalizing s with
  | zero =>
    cases h₁
    rwa [Nat.zero_add]
  | succ m ih =>
    rw [Nat.add_right_comm]
    simp only [State.Runs, Host.Core.run] at h₁ ⊢
    cases hstep : Sys2Proof.core.step s with
    | next s' =>
      rw [hstep] at h₁
      exact ih h₁
    | fault r =>
      rw [hstep] at h₁
      cases h₁
    | refused r =>
      rw [hstep] at h₁
      cases h₁

/-! ### One step of a phase, no host move pending -/

section
variable (hi : s.inputs = [])
include hi

theorem step_gCmd (hp : s.phase = .gCmd) : step s = stepGCmd s := by
  rw [step_of_no_input hi, outcome_fetchSequencer, hp]

theorem step_gAck (hp : s.phase = .gAck) : step s = stepGAck s := by
  rw [step_of_no_input hi, outcome_fetchSequencer, hp]

theorem step_gHdr (hp : s.phase = .gHdr) : step s = stepGHdr s := by
  rw [step_of_no_input hi, outcome_fetchSequencer, hp]

theorem step_gPay (hp : s.phase = .gPay) : step s = stepGPay s := by
  rw [step_of_no_input hi, outcome_fetchSequencer, hp]

theorem step_gDec (hp : s.phase = .gDec) : step s = stepGDec s := by
  rw [step_of_no_input hi, outcome_fetchSequencer, hp]

theorem step_pPrep (hp : s.phase = .pPrep) : step s = stepPPrep s := by
  rw [step_of_no_input hi, outcome_fetchSequencer, hp]

theorem step_pCmd (hp : s.phase = .pCmd) : step s = stepPCmd s := by
  rw [step_of_no_input hi, outcome_fetchSequencer, hp]

theorem step_pAck1 (hp : s.phase = .pAck1) : step s = stepPAck1 s := by
  rw [step_of_no_input hi, outcome_fetchSequencer, hp]

theorem step_pHdr (hp : s.phase = .pHdr) : step s = stepPHdr s := by
  rw [step_of_no_input hi, outcome_fetchSequencer, hp]

theorem step_pPay (hp : s.phase = .pPay) : step s = stepPPay s := by
  rw [step_of_no_input hi, outcome_fetchSequencer, hp]

theorem step_pAck2 (hp : s.phase = .pAck2) : step s = stepPAck2 s := by
  rw [step_of_no_input hi, outcome_fetchSequencer, hp]

end

/-! ### Command bytes -/

theorem stepGCmd_sent {k : Byte} {as : List TxAnswer} (hslot : s.slot = some k)
    (hk : 1 ≤ k.toNat ∧ k.toNat ≤ 4) (htx : s.txAns = .txOk :: as) :
    stepGCmd s = .next { s.sent (commandByte getBase k) as with phase := .gAck } := by
  simp only [stepGCmd, hslot, getCommand_of_slot hk, sendGetCommand, withTx_ok htx]

theorem gCmd_runs {k : Byte} {as : List TxAnswer} (hi : s.inputs = []) (hp : s.phase = .gCmd)
    (hslot : s.slot = some k) (hk : 1 ≤ k.toNat ∧ k.toNat ≤ 4) (htx : s.txAns = .txOk :: as) :
    State.Runs 1 s { s with
      tx := s.tx ++ [commandByte getBase k], txAns := as, phase := .gAck } :=
  State.runs_one ((step_gCmd hi hp).trans (stepGCmd_sent hslot hk htx))

theorem stepPCmd_sent {k : Byte} {as : List TxAnswer} (hslot : s.slot = some k)
    (hk : 1 ≤ k.toNat ∧ k.toNat ≤ 4) (htx : s.txAns = .txOk :: as) :
    stepPCmd s = .next { s.sent (commandByte putBase k) as with phase := .pAck1 } := by
  simp only [stepPCmd, hslot, putCommand_of_slot hk, sendPutCommand, withTx_ok htx]

/-- The command byte of a slot, by R61's formula without wrap. -/
theorem commandByte_toNat {base k : Byte} (hbase : base.toNat ≤ 0x14) (hk : k.toNat ≤ 4) :
    (commandByte base k).toNat = base.toNat + k.toNat * 0x10 := by
  have hstride : slotStride.toNat = 0x10 := rfl
  simp only [commandByte, BitVec.toNat_add, BitVec.toNat_mul, hstride]
  omega

/-! ### A GET's header and payload -/

theorem gAck_runs {as : List RxAnswer} (hi : s.inputs = []) (hp : s.phase = .gAck)
    (hrx : s.rx = .rxByte getAckByte :: as) :
    State.Runs 1 s { s with rx := as, phase := .gHdr, cnt := some 0 } :=
  State.runs_one ((step_gAck hi hp).trans (stepGAck_ack hrx))

/-- A header byte before the fourth. -/
theorem gHdr_byte_runs {c : Len} {b : Byte} {as : List RxAnswer} (hi : s.inputs = [])
    (hp : s.phase = .gHdr) (hcnt : s.cnt = some c) (hrx : s.rx = .rxByte b :: as)
    (hc : c + 1 ≠ 4) : State.Runs 1 s { s with
      rx := as, hdr := s.hdr.set c.toNat b, cnt := some (c + 1) } :=
  State.runs_one ((step_gHdr hi hp).trans (stepGHdr_more hcnt hrx hc))

/-- The four header bytes of a frame that is accepted (R127). -/
theorem gHdr_runs {w h : Dim} {rest : List RxAnswer} (hi : s.inputs = []) (hp : s.phase = .gHdr)
    (hcnt : s.cnt = some 0) (hrx : s.rx = (headerBytes w h).map .rxByte ++ rest)
    (hz : zeroDim w h = false) (hle : pixels w h ≤ s.maxPix) :
    State.Runs 4 s { s with
      rx := rest, hdr := Hdr.ofDims w h, phase := .gPay, cnt := some 0
      exp := some (BitVec.ofNat 34 (packedLength w h)), packed := some [] } := by
  refine State.Runs.trans (m := 1) (n := 3) (gHdr_byte_runs hi hp hcnt hrx (by decide)) ?_
  refine State.Runs.trans (m := 1) (n := 2) (gHdr_byte_runs (c := 1) hi hp rfl rfl (by decide)) ?_
  refine State.Runs.trans (m := 1) (n := 1) (gHdr_byte_runs (c := 2) hi hp rfl rfl (by decide)) ?_
  refine State.runs_one (Eq.trans (step_gHdr hi hp) (Eq.trans (stepGHdr_last rfl rfl) ?_))
  exact headerReceived_accepted (Hdr.dims_ofDims w h) hz hle

/-- One payload byte, `p` collected before it, `n` expected. -/
theorem stepGPay_append {p : List Byte} {b : Byte} {n : Nat} {as : List RxAnswer}
    (hp : s.phase = .gPay) (hcnt : s.cnt = some (BitVec.ofNat 34 p.length))
    (hexp : s.exp = some (BitVec.ofNat 34 n)) (hpacked : s.packed = some (Memory.ofBytes p))
    (hrx : s.rx = .rxByte b :: as) (hlt : p.length < n) (hn : n < 2 ^ 34) :
    stepGPay s = .next { s with
      rx := as, packed := some (Memory.ofBytes (p ++ [b]))
      cnt := some (BitVec.ofNat 34 (p ++ [b]).length)
      phase := if p.length + 1 = n then .gDec else .gPay } := by
  rw [stepGPay_byte hcnt hexp hpacked hrx, hp, len_toNat_ofNat (hlt.trans hn),
    Memory.write_ofBytes_length]
  simp only [len_ofNat_succ_eq_iff hlt hn]
  rw [len_ofNat_length_append]

/-- The payload bytes still to come, `p` of them collected (R127, R130). -/
theorem gPay_runs {p q : List Byte} {n : Nat} {rest : List RxAnswer} (hi : s.inputs = [])
    (hp : s.phase = .gPay) (hcnt : s.cnt = some (BitVec.ofNat 34 p.length))
    (hexp : s.exp = some (BitVec.ofNat 34 n)) (hpacked : s.packed = some (Memory.ofBytes p))
    (hrx : s.rx = q.map .rxByte ++ rest) (hlen : (p ++ q).length = n) (hlt : p.length < n)
    (hn : n < 2 ^ 34) :
    State.Runs q.length s { s with
      rx := rest, phase := .gDec, packed := some (Memory.ofBytes (p ++ q))
      cnt := some (BitVec.ofNat 34 n) } := by
  induction q generalizing s p with
  | nil => simp at hlen; omega
  | cons b q ih =>
    have hbyte := State.runs_one ((step_gPay hi hp).trans
      (stepGPay_append hp hcnt hexp hpacked hrx hlt hn))
    have hassoc : p ++ b :: q = (p ++ [b]) ++ q := by simp
    rw [List.length_cons, Nat.add_comm, hassoc]
    rw [hassoc] at hlen
    by_cases hend : p.length + 1 = n
    · obtain rfl : q = [] := List.eq_nil_of_length_eq_zero (by simp at hlen; omega)
      rw [if_pos hend] at hbyte
      rw [← hlen, List.append_nil]
      exact hbyte
    · rw [if_neg hend] at hbyte
      refine hbyte.trans ?_
      exact ih (p := p ++ [b]) hi rfl rfl hexp rfl rfl hlen (by simp; omega)

/-! ### The whole GET -/

theorem contentOf_ofBytes {p : List Byte} (hfit : p.length < 2 ^ 34) :
    contentOf (some (BitVec.ofNat 34 p.length)) (some (Memory.ofBytes p)) = some p := by
  simp only [contentOf, len_toNat_ofNat hfit, Memory.firstBytes_ofBytes]

/-- A GET that has sent its command byte `c` and collected the header and payload of a frame, in
G_DEC. -/
def State.collected (w h : Dim) (p : List Byte) (c : Byte) (as : List TxAnswer)
    (rest : List RxAnswer) (s : State) : State :=
  { State.begin .get s with
    inputs := [], tx := s.tx ++ [c], txAns := as, rx := rest
    phase := .gDec, hdr := Hdr.ofDims w h, packed := some (Memory.ofBytes p)
    cnt := some (BitVec.ofNat 34 (packedLength w h))
    exp := some (BitVec.ofNat 34 (packedLength w h)) }

/-- From START to G_DEC (R127, R130, R131). -/
theorem get_runs_to_decode {v : Len} {k : Byte} {w h : Dim} {p : List Byte} {as : List TxAnswer}
    {rest : List RxAnswer} (hidle : s.phase = .idle) (hb : s.status ≠ .busy) (hop : s.op = some 0)
    (hslot : s.slot = some k) (hk : 1 ≤ k.toNat ∧ k.toNat ≤ 4) (hi : s.inputs = [.writeReg 0 v])
    (hv : v.getLsbD 0 = true) (hz : zeroDim w h = false) (hle : pixels w h ≤ s.maxPix)
    (hlen : p.length = packedLength w h) (htx : s.txAns = .txOk :: as)
    (hrx : s.rx = .rxByte getAckByte :: ((headerBytes w h ++ p).map .rxByte ++ rest)) :
    State.Runs (1 + (1 + (1 + (4 + p.length)))) s
      (s.collected w h p (commandByte getBase k) as rest) := by
  have hstart : step s = .next (State.begin .get { s with inputs := [] }) := by
    rw [step_start_op hi hv hb hop]
    exact Eq.trans (exec_get_idle (s := { s with inputs := [] }) hidle) (start_get hb hslot)
  rw [List.map_append, List.append_assoc] at hrx
  refine State.Runs.trans (State.runs_one hstart) ?_
  refine State.Runs.trans (gCmd_runs rfl rfl hslot hk htx) ?_
  refine State.Runs.trans (gAck_runs rfl rfl hrx) ?_
  refine State.Runs.trans (gHdr_runs rfl rfl rfl rfl hz hle) ?_
  exact gPay_runs (p := []) rfl rfl rfl rfl rfl rfl hlen (packedLength_pos hz) (packedLength_lt w h)

/-- In G_DEC the collected bytes are PACKED's valid content under CNT. -/
theorem State.contentOf_collected {w h : Dim} {p : List Byte} (hlen : p.length = packedLength w h)
    (c : Byte) (as : List TxAnswer) (rest : List RxAnswer) (s : State) :
    contentOf (s.collected w h p c as rest).cnt (s.collected w h p c as rest).packed = some p := by
  have hfit := packedLength_lt w h
  rw [← hlen] at hfit
  have hcontent := contentOf_ofBytes hfit
  rwa [hlen] at hcontent

/-- Settles O54: the run to G_DEC, then the decode, by the parity of the area. -/
theorem wholeGetRuns : Obligations.WholeGetRuns := by
  intro s v k w h p as rest hidle hb hop hslot hk1 hk4 hi hv hw hh hle hlen htx hrx
  have hz := zeroDim_eq_false hw hh
  have hto := get_runs_to_decode hidle hb hop hslot ⟨hk1, hk4⟩ hi hv hz hle hlen htx hrx
  have hcontent := State.contentOf_collected hlen (commandByte getBase k) as rest s
  have hdims := Hdr.dims_ofDims w h
  have hsteps : 8 + 2 * (w.toNat * h.toNat) = 1 + (1 + (1 + (4 + p.length))) + 1 := by omega
  have hbyte := commandByte_toNat (base := getBase) (by decide) hk4
  rw [hsteps]
  rcases Nat.mod_two_eq_zero_or_one (w.toNat * h.toNat) with heven | hodd
  · have hdec := (step_gDec rfl rfl).trans (stepGDec_even hdims hcontent hlen heven)
    refine ⟨_, hto.trans (State.runs_one hdec), ⟨_, hbyte, rfl⟩, rfl, rfl, rfl, rfl, rfl,
      ⟨rfl, rfl, rfl⟩, rfl, rfl, fun _ => ⟨rfl, rfl, rfl, rfl, ?_⟩, fun hodd => by omega⟩
    exact ⟨_, _, _, decodeBuf_of_length (by omega), rfl, Memory.read_ofBytes _, rfl,
      len_toNat_ofNat (fullLength_lt w h)⟩
  · have hdec := (step_gDec rfl rfl).trans (stepGDec_odd hdims hcontent hlen hodd)
    exact ⟨_, hto.trans (State.runs_one hdec), ⟨_, hbyte, rfl⟩, rfl, rfl, rfl, rfl, rfl,
      ⟨rfl, rfl, rfl⟩, rfl, rfl, fun heven => by omega, fun _ => ⟨rfl, rfl, rfl, rfl, rfl, rfl⟩⟩

/-! ### A PUT's frame encoded, its header and payload sent -/

/-- P_PREP of a frame with the right length and an even area (R144). -/
theorem pPrep_runs {w h : Dim} {f : List Byte} (hi : s.inputs = []) (hp : s.phase = .pPrep)
    (hw : s.w = some w) (hh : s.h = some h) (hcontent : contentOf s.flen s.full = some f)
    (hz : zeroDim w h = false) (hlen : f.length = fullLength w h) (heven : pixels w h % 2 = 0) :
    State.Runs 1 s { s with
      packed := some (Memory.ofBytes (encodeGroups f)), phase := .pCmd } := by
  obtain ⟨n, hn, hnlen⟩ := length_of_contentOf hcontent
  have hn' : n.toNat = fullLength w h := hnlen.symm.trans hlen
  have hbuf : encodeBuf f = some (encodeGroups f) :=
    encodeBuf_of_length (by simp only [fullLength] at hlen; omega)
  have hplen : (encodeGroups f).length = packedLength w h := by
    rw [length_encodeGroups, hlen]
    simp only [fullLength, packedLength]
    omega
  rw [hn] at hcontent
  refine State.runs_one ((step_pPrep hi hp).trans ?_)
  simp [stepPPrep, hw, hh, hn, hcontent, hz, hn', hbuf, hplen]

theorem pAck1_runs {w h : Dim} {as : List RxAnswer} (hi : s.inputs = []) (hp : s.phase = .pAck1)
    (hw : s.w = some w) (hh : s.h = some h) (hrx : s.rx = .rxByte putAckByte :: as) :
    State.Runs 1 s { s with
      rx := as, phase := .pHdr, cnt := some 0, hdr := Hdr.ofDims w h
      exp := some (BitVec.ofNat 34 (packedLength w h)) } :=
  State.runs_one ((step_pAck1 hi hp).trans (stepPAck1_ack hw hh hrx))

/-- A header byte before the fourth. -/
theorem pHdr_byte_runs {c : Len} {b : Byte} {as : List TxAnswer} (hi : s.inputs = [])
    (hp : s.phase = .pHdr) (hcnt : s.cnt = some c) (hb : s.hdr.get c.toNat = some b)
    (htx : s.txAns = .txOk :: as) (hc : c + 1 ≠ 4) :
    State.Runs 1 s { s with tx := s.tx ++ [b], txAns := as, cnt := some (c + 1) } := by
  refine State.runs_one ((step_pHdr hi hp).trans ?_)
  rw [stepPHdr_byte hcnt hb htx, if_neg hc, if_neg hc]
  rfl

/-- The fourth header byte: P_PAY follows with CNT 0 (R22). -/
theorem pHdr_last_runs {b : Byte} {as : List TxAnswer} (hi : s.inputs = [])
    (hp : s.phase = .pHdr) (hcnt : s.cnt = some 3) (hb : s.hdr.get 3 = some b)
    (htx : s.txAns = .txOk :: as) :
    State.Runs 1 s { s with tx := s.tx ++ [b], txAns := as, cnt := some 0, phase := .pPay } := by
  refine State.runs_one ((step_pHdr hi hp).trans ?_)
  rw [stepPHdr_byte hcnt hb htx, if_pos (by decide), if_pos (by decide)]
  rfl

/-- The four header bytes of a PUT (R129). -/
theorem pHdr_runs {w h : Dim} {as : List TxAnswer} (hi : s.inputs = []) (hp : s.phase = .pHdr)
    (hcnt : s.cnt = some 0) (hhdr : s.hdr = Hdr.ofDims w h)
    (htx : s.txAns = List.replicate 4 .txOk ++ as) :
    State.Runs 4 s { s with
      tx := s.tx ++ headerBytes w h, txAns := as, cnt := some 0, phase := .pPay } := by
  have hget : ∀ (i : Nat) (b : Byte), (headerBytes w h)[i]? = some b → s.hdr.get i = some b := by
    intro i b hb
    rw [hhdr, Hdr.get_ofDims, hb]
  have hbytes : s.tx ++ headerBytes w h =
      s.tx ++ [BitVec.ofNat 8 (w.toNat / 256)] ++ [BitVec.ofNat 8 (w.toNat % 256)] ++
        [BitVec.ofNat 8 (h.toNat / 256)] ++ [BitVec.ofNat 8 (h.toNat % 256)] := by
    simp [headerBytes]
  rw [hbytes]
  refine State.Runs.trans (m := 1) (n := 3)
    (pHdr_byte_runs hi hp hcnt (hget 0 _ rfl) htx (by decide)) ?_
  refine State.Runs.trans (m := 1) (n := 2)
    (pHdr_byte_runs (c := 1) hi hp rfl (hget 1 _ rfl) rfl (by decide)) ?_
  refine State.Runs.trans (m := 1) (n := 1)
    (pHdr_byte_runs (c := 2) hi hp rfl (hget 2 _ rfl) rfl (by decide)) ?_
  exact pHdr_last_runs hi hp rfl (hget 3 _ rfl) rfl

/-- One payload byte, `p` sent before it, `n` expected. -/
theorem stepPPay_sent {p q : List Byte} {b : Byte} {n : Nat} {as : List TxAnswer}
    (hp : s.phase = .pPay) (hcnt : s.cnt = some (BitVec.ofNat 34 p.length))
    (hexp : s.exp = some (BitVec.ofNat 34 n))
    (hpacked : s.packed = some (Memory.ofBytes (p ++ b :: q))) (htx : s.txAns = .txOk :: as)
    (hlt : p.length < n) (hn : n < 2 ^ 34) :
    stepPPay s = .next { s with
      tx := s.tx ++ [b], txAns := as, cnt := some (BitVec.ofNat 34 (p ++ [b]).length)
      phase := if p.length + 1 = n then .pAck2 else .pPay } := by
  have hread : Memory.read (Memory.ofBytes (p ++ b :: q)) (BitVec.ofNat 34 p.length).toNat =
      some b := by
    rw [len_toNat_ofNat (hlt.trans hn), Memory.read_ofBytes]
    simp
  rw [stepPPay_byte hcnt hexp hpacked hread htx, hp]
  simp only [len_ofNat_succ_eq_iff hlt hn]
  rw [len_ofNat_length_append]
  rfl

/-- The payload bytes still to go, `q` after the `p` that are sent (R129). -/
theorem pPay_runs {p q : List Byte} {n : Nat} {as : List TxAnswer} (hi : s.inputs = [])
    (hp : s.phase = .pPay) (hcnt : s.cnt = some (BitVec.ofNat 34 p.length))
    (hexp : s.exp = some (BitVec.ofNat 34 n))
    (hpacked : s.packed = some (Memory.ofBytes (p ++ q)))
    (htx : s.txAns = List.replicate q.length .txOk ++ as) (hlen : (p ++ q).length = n)
    (hlt : p.length < n) (hn : n < 2 ^ 34) :
    State.Runs q.length s { s with
      tx := s.tx ++ q, txAns := as, cnt := some (BitVec.ofNat 34 n), phase := .pAck2 } := by
  induction q generalizing s p with
  | nil => simp at hlen; omega
  | cons b q ih =>
    have hbyte := State.runs_one ((step_pPay hi hp).trans
      (stepPPay_sent hp hcnt hexp hpacked htx hlt hn))
    have hassoc : p ++ b :: q = (p ++ [b]) ++ q := by simp
    have htxs : s.tx ++ b :: q = (s.tx ++ [b]) ++ q := by simp
    rw [hassoc] at hlen hpacked
    rw [List.length_cons, Nat.add_comm, htxs]
    by_cases hend : p.length + 1 = n
    · obtain rfl : q = [] := List.eq_nil_of_length_eq_zero (by simp at hlen; omega)
      rw [if_pos hend] at hbyte
      rw [← hlen, List.append_nil, List.append_nil]
      exact hbyte
    · rw [if_neg hend] at hbyte
      refine State.Runs.trans hbyte ?_
      exact ih (p := p ++ [b]) hi rfl rfl hexp hpacked rfl hlen (by simp; omega)

/-! ### The whole PUT -/

theorem pCmd_runs {k : Byte} {as : List TxAnswer} (hi : s.inputs = []) (hp : s.phase = .pCmd)
    (hslot : s.slot = some k) (hk : 1 ≤ k.toNat ∧ k.toNat ≤ 4) (htx : s.txAns = .txOk :: as) :
    State.Runs 1 s { s with
      tx := s.tx ++ [commandByte putBase k], txAns := as, phase := .pAck1 } :=
  State.runs_one ((step_pCmd hi hp).trans (stepPCmd_sent hslot hk htx))

theorem pAck2_runs {as : List RxAnswer} (hi : s.inputs = []) (hp : s.phase = .pAck2)
    (hrx : s.rx = .rxByte putAckByte :: as) :
    State.Runs 1 s (State.voidFor .put { s with rx := as }).finish :=
  State.runs_one ((step_pAck2 hi hp).trans (stepPAck2_ack hrx))

/-- START of a PUT and its P_PREP (R144, R149). -/
theorem put_runs_to_command {v : Len} {k : Byte} {w h : Dim} {f : List Byte}
    (hidle : s.phase = .idle) (hb : s.status ≠ .busy) (hop : s.op = some 1)
    (hslot : s.slot = some k) (hi : s.inputs = [.writeReg 0 v]) (hv : v.getLsbD 0 = true)
    (hw : s.w = some w) (hh : s.h = some h) (hcontent : contentOf s.flen s.full = some f)
    (hz : zeroDim w h = false) (hle : pixels w h ≤ s.maxPix) (hlen : f.length = fullLength w h)
    (heven : pixels w h % 2 = 0) :
    State.Runs (1 + 1) s { s with
      inputs := [], packed := some (Memory.ofBytes (encodeGroups f)), plen := none
      cnt := none, exp := none, hdr := Hdr.ofDims w h
      err := .none, status := .busy, phase := .pCmd } := by
  have hstart : step s = .next (State.begin .put { s with inputs := [] }) := by
    rw [step_start_op hi hv hb hop]
    exact Eq.trans (exec_put_idle (s := { s with inputs := [] }) hidle)
      (start_put hb hslot hw hh hcontent hle)
  rw [State.begin_put_eq (s := { s with inputs := [] }) hw hh] at hstart
  exact (State.runs_one hstart).trans (pPrep_runs rfl rfl hw hh hcontent hz hlen heven)

/-- The exchange of a PUT whose encoded frame stands in PACKED, from P_CMD to DONE (R129). -/
theorem put_exchange_runs {k : Byte} {w h : Dim} {p : List Byte} {as : List TxAnswer}
    {rest : List RxAnswer} (hi : s.inputs = []) (hp : s.phase = .pCmd) (hslot : s.slot = some k)
    (hk : 1 ≤ k.toNat ∧ k.toNat ≤ 4) (hw : s.w = some w) (hh : s.h = some h)
    (hpacked : s.packed = some (Memory.ofBytes p)) (hlen : p.length = packedLength w h)
    (hz : zeroDim w h = false)
    (htx : s.txAns = .txOk :: (List.replicate 4 .txOk ++ (List.replicate p.length .txOk ++ as)))
    (hrx : s.rx = .rxByte putAckByte :: .rxByte putAckByte :: rest) :
    State.Runs (1 + (1 + (4 + (p.length + 1)))) s { s with
      tx := s.tx ++ [commandByte putBase k] ++ headerBytes w h ++ p, txAns := as, rx := rest
      status := .done, phase := .idle, packed := none, plen := none
      cnt := none, exp := none, hdr := Hdr.void } := by
  refine State.Runs.trans (pCmd_runs hi hp hslot hk htx) ?_
  refine State.Runs.trans (pAck1_runs hi rfl hw hh hrx) ?_
  refine State.Runs.trans (pHdr_runs (w := w) (h := h) hi rfl rfl rfl rfl) ?_
  refine State.Runs.trans (pPay_runs (p := []) (q := p) hi rfl rfl rfl hpacked rfl hlen
    (packedLength_pos hz) (packedLength_lt w h)) ?_
  exact pAck2_runs hi rfl rfl

/-- Settles O55: START, P_PREP and the exchange, phase after phase. -/
theorem wholePutRuns : Obligations.WholePutRuns := by
  intro s v k w h f as rest hidle hb hop hslot hk1 hk4 hi hv hw hh hcontent hw0 hh0 hle heven hlen
    htx hrx
  have hz := zeroDim_eq_false hw0 hh0
  have hbuf : encodeBuf f = some (encodeGroups f) := encodeBuf_of_length (by omega)
  have hplen : (encodeGroups f).length = packedLength w h := by
    rw [length_encodeGroups, hlen]
    simp only [packedLength, pixels]
    omega
  refine ⟨commandByte putBase k, encodeGroups f, commandByte_toNat (by decide) hk4, hbuf, ?_⟩
  have hsteps : 9 + 2 * (w.toNat * h.toNat) =
      1 + 1 + (1 + (1 + (4 + ((encodeGroups f).length + 1)))) := by
    rw [hplen]
    simp only [packedLength, pixels]
    omega
  have htx' : s.txAns = .txOk :: (List.replicate 4 .txOk ++
      (List.replicate (encodeGroups f).length .txOk ++ as)) := by
    have hcount : 5 + w.toNat * h.toNat * 2 = 1 + (4 + (encodeGroups f).length) := by
      rw [hplen]
      simp only [packedLength, pixels]
      omega
    rw [htx, hcount, List.replicate_add, List.replicate_add]
    simp
  have htxs : s.tx ++ (commandByte putBase k :: (headerBytes w h ++ encodeGroups f)) =
      s.tx ++ [commandByte putBase k] ++ headerBytes w h ++ encodeGroups f := by simp
  have hto := put_runs_to_command hidle hb hop hslot hi hv hw hh hcontent hz hle hlen heven
  rw [hsteps, htxs]
  exact hto.trans (put_exchange_runs rfl rfl hslot ⟨hk1, hk4⟩ hw hh rfl hplen hz htx' hrx)

end Sys2Proof.Machine
end

section
/-! PROOFS. The pixel codec over a concatenation (R101): a run of whole groups is converted by itself,
and what follows it by itself. -/

namespace Sys2Proof.Machine

/-! ### The groups of a concatenation -/

theorem decodeGroups_append {p : List Byte} (hp : p.length % 4 = 0) (q : List Byte) :
    decodeGroups (p ++ q) = decodeGroups p ++ decodeGroups q := by
  induction p using decodeGroups.induct with
  | case1 y1 cb y2 cr rest ih =>
    have hrest : rest.length % 4 = 0 := by
      simp only [List.length_cons] at hp
      omega
    simp only [List.cons_append, decodeGroups, ih hrest, List.append_assoc]
  | case2 p hshort =>
    match p, hshort with
    | [], _ => rfl
    | [_], _ | [_, _], _ | [_, _, _], _ => simp at hp
    | y1 :: cb :: y2 :: cr :: rest, hshort => exact (hshort y1 cb y2 cr rest rfl).elim

theorem encodeGroups_append {f : List Byte} (hf : f.length % 6 = 0) (g : List Byte) :
    encodeGroups (f ++ g) = encodeGroups f ++ encodeGroups g := by
  induction f using encodeGroups.induct with
  | case1 r1 g1 b1 r2 g2 b2 rest ih =>
    have hrest : rest.length % 6 = 0 := by
      simp only [List.length_cons] at hf
      omega
    simp only [List.cons_append, encodeGroups, ih hrest, List.append_assoc]
  | case2 f hshort =>
    match f, hshort with
    | [], _ => rfl
    | [_], _ | [_, _], _ | [_, _, _], _ | [_, _, _, _], _ | [_, _, _, _, _], _ => simp at hf
    | r1 :: g1 :: b1 :: r2 :: g2 :: b2 :: rest, hshort =>
      exact (hshort r1 g1 b1 r2 g2 b2 rest rfl).elim

/-! ### The conversions -/

theorem decodeBuf_eq_some_iff {p f : List Byte} :
    decodeBuf p = some f ↔ p.length % 4 = 0 ∧ decodeGroups p = f := by
  simp [decodeBuf]

theorem encodeBuf_eq_some_iff {f p : List Byte} :
    encodeBuf f = some p ↔ f.length % 6 = 0 ∧ encodeGroups f = p := by
  simp [encodeBuf]

theorem decodeBuf_append {p : List Byte} (hp : p.length % 4 = 0) (q : List Byte) :
    decodeBuf (p ++ q) = (decodeBuf q).map (decodeGroups p ++ ·) := by
  have hlen : (p ++ q).length % 4 = q.length % 4 := by
    rw [List.length_append]
    omega
  by_cases hq : q.length % 4 = 0
  · rw [decodeBuf_of_length (hlen.trans hq), decodeBuf_of_length hq, decodeGroups_append hp,
      Option.map_some]
  · rw [decodeBuf_none (hlen ▸ hq), decodeBuf_none hq, Option.map_none]

theorem encodeBuf_append {f : List Byte} (hf : f.length % 6 = 0) (g : List Byte) :
    encodeBuf (f ++ g) = (encodeBuf g).map (encodeGroups f ++ ·) := by
  have hlen : (f ++ g).length % 6 = g.length % 6 := by
    rw [List.length_append]
    omega
  by_cases hg : g.length % 6 = 0
  · rw [encodeBuf_of_length (hlen.trans hg), encodeBuf_of_length hg, encodeGroups_append hf,
      Option.map_some]
  · rw [encodeBuf_none (hlen ▸ hg), encodeBuf_none hg, Option.map_none]

/-- Settles O13: a buffer that converts is whole groups, and those stand before the rest. -/
theorem pairsAreIndependent : Obligations.PairsAreIndependent := by
  refine ⟨fun p q f h => ?_, fun f g p h => ?_⟩
  · obtain ⟨hp, rfl⟩ := decodeBuf_eq_some_iff.1 h
    exact decodeBuf_append hp q
  · obtain ⟨hf, rfl⟩ := encodeBuf_eq_some_iff.1 h
    exact encodeBuf_append hf g

end Sys2Proof.Machine
end

section
/-! PROOFS. The transport's streams through one step (R54, R122, R131): what offers or requests nothing
keeps them, and `tx` and `rx` move one item. -/

namespace Sys2Proof.Machine

variable {s t : State} {o : HostOp}

/-- TX grows by at most one byte and uses up at most one answer, in a phase that offers one; RX shrinks
by at most one answer, in a phase that requests one (R54, R131). -/
def State.StreamsMoved (s t : State) : Prop :=
  (t.tx = s.tx ∨ s.phase.offersTx = true ∧ ∃ b, t.tx = s.tx ++ [b]) ∧
  (t.txAns = s.txAns ∨ s.phase.offersTx = true ∧ ∃ a, s.txAns = a :: t.txAns) ∧
  (t.rx = s.rx ∨ s.phase.requestsRx = true ∧ ∃ a, s.rx = a :: t.rx)

/-! ### The three ways a step moves the streams -/

theorem State.StreamsMoved.of_kept (htx : t.tx = s.tx) (hans : t.txAns = s.txAns)
    (hrx : t.rx = s.rx) : State.StreamsMoved s t :=
  ⟨.inl htx, .inl hans, .inl hrx⟩

/-- One answer to `tx` is used up; the byte is on TX if it was taken. -/
theorem State.StreamsMoved.of_tx {a : TxAnswer} (hp : s.phase.offersTx = true)
    (htx : t.tx = s.tx ∨ ∃ b, t.tx = s.tx ++ [b]) (hans : s.txAns = a :: t.txAns)
    (hrx : t.rx = s.rx) : State.StreamsMoved s t :=
  ⟨htx.imp_right fun hb => ⟨hp, hb⟩, .inr ⟨hp, a, hans⟩, .inl hrx⟩

/-- One answer to `rx` is used up. -/
theorem State.StreamsMoved.of_rx {a : RxAnswer} (hp : s.phase.requestsRx = true)
    (htx : t.tx = s.tx) (hans : t.txAns = s.txAns) (hrx : s.rx = a :: t.rx) :
    State.StreamsMoved s t :=
  ⟨.inl htx, .inl hans, .inr ⟨hp, a, hrx⟩⟩

theorem State.streamsMoved_refl (s : State) : State.StreamsMoved s s := .of_kept rfl rfl rfl

theorem State.streamsMoved_abort (o : HostOp) (c : ErrCode) (s : State) :
    State.StreamsMoved s (s.abort o c) :=
  .of_kept (by simp) (by simp) (by simp)

theorem TxStops.streamsMoved (hstop : TxStops o s t) (hp : s.phase.offersTx = true) :
    State.StreamsMoved s t := by
  obtain ⟨-, rfl⟩ | ⟨_, as, c, hans, -, rfl⟩ := hstop
  · exact t.streamsMoved_refl
  · exact .of_tx hp (.inl (by simp)) (by simpa using hans) (by simp)

theorem State.streamsMoved_abort_rx {a : RxAnswer} {as : List RxAnswer}
    (hp : s.phase.requestsRx = true) (hrx : s.rx = a :: as) (c : ErrCode) :
    State.StreamsMoved s (State.abort o c { s with rx := as }) :=
  .of_rx hp (by simp) (by simp) (by simpa using hrx)

theorem RxStops.streamsMoved (hstop : RxStops o s t) (hp : s.phase.requestsRx = true) :
    State.StreamsMoved s t := by
  obtain ⟨-, rfl⟩ | ⟨_, as, c, hrx, -, rfl⟩ := hstop
  · exact t.streamsMoved_refl
  · exact State.streamsMoved_abort_rx hp hrx c

/-! ### The phases that offer a byte -/

section
variable (hp : s.phase.offersTx = true)
include hp

theorem stepGCmd_streams (h : stepGCmd s = .next t) : State.StreamsMoved s t := by
  obtain ⟨_, -, ⟨-, rfl⟩ | ⟨_, -, hstop | ⟨_, hans, rfl⟩⟩⟩ := stepGCmd_next h
  · exact s.streamsMoved_abort _ _
  · exact hstop.streamsMoved hp
  · exact .of_tx hp (.inr ⟨_, rfl⟩) hans rfl

theorem stepPCmd_streams (h : stepPCmd s = .next t) : State.StreamsMoved s t := by
  obtain ⟨_, -, ⟨-, rfl⟩ | ⟨_, -, hstop | ⟨_, hans, rfl⟩⟩⟩ := stepPCmd_next h
  · exact s.streamsMoved_abort _ _
  · exact hstop.streamsMoved hp
  · exact .of_tx hp (.inr ⟨_, rfl⟩) hans rfl

theorem stepPHdr_streams (h : stepPHdr s = .next t) : State.StreamsMoved s t := by
  obtain ⟨_, _, -, -, hstop | ⟨_, hans, ⟨-, rfl⟩ | ⟨-, rfl⟩⟩⟩ := stepPHdr_next h
  · exact hstop.streamsMoved hp
  · exact .of_tx hp (.inr ⟨_, rfl⟩) hans rfl
  · exact .of_tx hp (.inr ⟨_, rfl⟩) hans rfl

theorem stepPPay_streams (h : stepPPay s = .next t) : State.StreamsMoved s t := by
  obtain ⟨_, _, _, _, -, -, -, -, hstop | ⟨_, hans, rfl⟩⟩ := stepPPay_next h
  · exact hstop.streamsMoved hp
  · exact .of_tx hp (.inr ⟨_, rfl⟩) hans rfl

end

/-! ### The phases that request a byte -/

section
variable (hp : s.phase.requestsRx = true)
include hp

theorem stepGAck_streams (h : stepGAck s = .next t) : State.StreamsMoved s t := by
  obtain hstop | ⟨_, _, hrx, ⟨-, rfl⟩ | ⟨-, rfl⟩⟩ := stepGAck_next h
  · exact hstop.streamsMoved hp
  · exact .of_rx hp rfl rfl hrx
  · exact State.streamsMoved_abort_rx hp hrx _

theorem stepPAck1_streams (h : stepPAck1 s = .next t) : State.StreamsMoved s t := by
  obtain ⟨_, _, -, -, hstop | ⟨_, _, hrx, ⟨-, rfl⟩ | ⟨-, rfl⟩⟩⟩ := stepPAck1_next h
  · exact hstop.streamsMoved hp
  · exact .of_rx hp rfl rfl hrx
  · exact State.streamsMoved_abort_rx hp hrx _

theorem stepPAck2_streams (h : stepPAck2 s = .next t) : State.StreamsMoved s t := by
  obtain hstop | ⟨_, _, hrx, ⟨-, rfl⟩ | ⟨-, rfl⟩⟩ := stepPAck2_next h
  · exact hstop.streamsMoved hp
  · exact .of_rx hp rfl rfl hrx
  · exact State.streamsMoved_abort_rx hp hrx _

theorem stepGHdr_streams (h : stepGHdr s = .next t) : State.StreamsMoved s t := by
  obtain ⟨_, -, hstop | ⟨_, as, hrx, ⟨-, hend⟩ | ⟨-, rfl⟩⟩⟩ := stepGHdr_next h
  · exact hstop.streamsMoved hp
  · obtain ⟨_, _, -, ⟨-, rfl⟩ | ⟨-, -, rfl⟩⟩ := headerReceived_next hend
    · exact .of_rx hp (by simp) (by simp) (by simpa using hrx)
    · exact .of_rx hp rfl rfl hrx
  · exact .of_rx hp rfl rfl hrx

theorem stepGPay_streams (h : stepGPay s = .next t) : State.StreamsMoved s t := by
  obtain ⟨_, _, _, -, -, -, hstop | ⟨_, _, hrx, rfl⟩⟩ := stepGPay_next h
  · exact hstop.streamsMoved hp
  · exact .of_rx hp rfl rfl hrx

end

/-! ### The compute phases -/

theorem stepGDec_streams (h : stepGDec s = .next t) : State.StreamsMoved s t := by
  obtain ⟨_, _, _, -, -, ⟨-, rfl⟩ | ⟨_, -, -, rfl⟩⟩ := stepGDec_next h
  · exact s.streamsMoved_abort _ _
  · exact .of_kept rfl rfl rfl

theorem stepPPrep_streams (h : stepPPrep s = .next t) : State.StreamsMoved s t := by
  obtain ⟨_, _, _, _, -, -, -, -, ⟨-, rfl⟩ | ⟨_, -, -, -, -, rfl⟩⟩ := stepPPrep_next h
  · exact s.streamsMoved_abort _ _
  · exact .of_kept rfl rfl rfl

theorem stepCDec_streams (h : stepCDec s = .next t) : State.StreamsMoved s t := by
  obtain ⟨_, _, -, -, ⟨-, rfl⟩ | ⟨_, -, rfl⟩⟩ := stepCDec_next h
  · exact s.streamsMoved_abort _ _
  · exact .of_kept rfl rfl rfl

theorem stepCEnc_streams (h : stepCEnc s = .next t) : State.StreamsMoved s t := by
  obtain ⟨_, _, -, -, ⟨-, rfl⟩ | ⟨_, -, rfl⟩⟩ := stepCEnc_next h
  · exact s.streamsMoved_abort _ _
  · exact .of_kept rfl rfl rfl

/-! ### The sequencer's move, and START through the host port -/

theorem fetchSequencer_streams (h : (fetchSequencer s).outcome = .next t) :
    State.StreamsMoved s t := by
  rw [outcome_fetchSequencer] at h
  cases hp : s.phase <;> rw [hp] at h
  case idle => cases h; exact s.streamsMoved_refl
  case gCmd => exact stepGCmd_streams (hp ▸ rfl) h
  case gAck => exact stepGAck_streams (hp ▸ rfl) h
  case gHdr => exact stepGHdr_streams (hp ▸ rfl) h
  case gPay => exact stepGPay_streams (hp ▸ rfl) h
  case gDec => exact stepGDec_streams h
  case pPrep => exact stepPPrep_streams h
  case pCmd => exact stepPCmd_streams (hp ▸ rfl) h
  case pAck1 => exact stepPAck1_streams (hp ▸ rfl) h
  case pHdr => exact stepPHdr_streams (hp ▸ rfl) h
  case pPay => exact stepPPay_streams (hp ▸ rfl) h
  case pAck2 => exact stepPAck2_streams (hp ▸ rfl) h
  case cDec => exact stepCDec_streams h
  case cEnc => exact stepCEnc_streams h

theorem fetchStart_streams (h : (fetchStart s).outcome = .next t) : State.StreamsMoved s t := by
  rw [outcome_fetchStart] at h
  split at h
  · cases h
  · split at h
    · cases h
    · obtain ⟨o, hstart⟩ | hseq := exec_decodeOpreq_next h
      · obtain ⟨-, -, -, rfl⟩ := start_next hstart
        exact .of_kept (by simp) (by simp) (by simp)
      · exact fetchSequencer_streams hseq

/-! ### One step -/

theorem fetchInput_streams {i : Input} (h : (fetchInput i s).outcome = .next t) :
    State.StreamsMoved s t := by
  cases i with
  | proceed => exact fetchSequencer_streams h
  | writeReg n v =>
    simp only [fetchInput] at h
    split at h
    · exact fetchStart_streams h
    · obtain ⟨-, -, rfl | rfl | rfl | rfl | rfl | rfl | rfl⟩ := hostWriteReg_next h <;>
        exact .of_kept rfl rfl rfl
  | readReg n =>
    obtain ⟨-, _, _, rfl⟩ := hostReadReg_next h
    exact .of_kept (by simp) (by simp) (by simp)
  | writeByte buf k b =>
    obtain ⟨-, rfl⟩ := hostWriteByte_next h
    exact .of_kept (by simp) (by simp) (by simp)
  | readByte buf k =>
    cases h
    exact .of_kept (by simp) (by simp) (by simp)
  | load buf bs =>
    obtain ⟨-, -, rfl⟩ := hostLoad_next h
    exact .of_kept (by simp) (by simp) (by simp)
  | reset =>
    cases h
    exact .of_kept rfl rfl rfl

/-- Settles O47, by the next move: the sequencer's moves the streams as its phase says, the host's and
the reset input's keep them. -/
theorem streamsMoveOnlyOnRequest : Obligations.StreamsMoveOnlyOnRequest := by
  intro s t h
  cases hi : s.inputs with
  | nil =>
    rw [step_of_no_input hi] at h
    exact fetchSequencer_streams h
  | cons i rest =>
    rw [step_of_input hi] at h
    exact fetchInput_streams (s := { s with inputs := rest }) h

end Sys2Proof.Machine
end

section
/-! PROOFS. The reference framestore (R42, R44, R61): a command byte read by its fields, the cells, and
the device's turns through a whole exchange. -/

namespace Sys2Proof.Machine

/-! ### A command byte read by its fields (R61) -/

/-- A byte is determined by its two fields. -/
theorem byte_eq_of_fields {b c : Byte} (hfn : cmdFn b = cmdFn c) (hsel : cmdSel b = cmdSel c) :
    b = c := by
  simp only [cmdFn, cmdSel, ← BitVec.toNat_inj, BitVec.extractLsb'_toNat,
    Nat.shiftRight_eq_div_pow] at hfn hsel ⊢
  omega

theorem slot_of_getCommand {k c : Byte} (h : getCommand k = some c) :
    (k = 1 ∨ k = 2 ∨ k = 3 ∨ k = 4) ∧ commandByte getBase k = c := by
  rcases slot_cases k with hno | hk
  · rw [getCommand_none hno] at h
    cases h
  · refine ⟨hk, ?_⟩
    rcases hk with rfl | rfl | rfl | rfl <;> exact Option.some.inj h

theorem slot_of_putCommand {k c : Byte} (h : putCommand k = some c) :
    (k = 1 ∨ k = 2 ∨ k = 3 ∨ k = 4) ∧ commandByte putBase k = c := by
  rcases slot_cases k with hno | hk
  · rw [putCommand_none hno] at h
    cases h
  · refine ⟨hk, ?_⟩
    rcases hk with rfl | rfl | rfl | rfl <;> exact Option.some.inj h

theorem commandOf_of_getCommand {k c : Byte} (h : getCommand k = some c) :
    commandOf c = some (.get, k) := by
  obtain ⟨rfl | rfl | rfl | rfl, rfl⟩ := slot_of_getCommand h <;> decide

theorem commandOf_of_putCommand {k c : Byte} (h : putCommand k = some c) :
    commandOf c = some (.put, k) := by
  obtain ⟨rfl | rfl | rfl | rfl, rfl⟩ := slot_of_putCommand h <;> decide

/-- The two values of `fn` and the four of `sel` are those of the eight command bytes. -/
theorem command_of_decodeCmd8 {b : Byte} {i : Instr} (h : decodeCmd8 b = some i) :
    ∃ k, getCommand k = some b ∨ putCommand k = some b := by
  simp only [decodeCmd8] at h
  split_ifs at h with hget h2 h3 h4 h5 hput h2 h3 h4 h5
  · exact ⟨1, .inl (congrArg some (byte_eq_of_fields hget.symm h2.symm))⟩
  · exact ⟨2, .inl (congrArg some (byte_eq_of_fields hget.symm h3.symm))⟩
  · exact ⟨3, .inl (congrArg some (byte_eq_of_fields hget.symm h4.symm))⟩
  · exact ⟨4, .inl (congrArg some (byte_eq_of_fields hget.symm h5.symm))⟩
  · exact ⟨1, .inr (congrArg some (byte_eq_of_fields hput.symm h2.symm))⟩
  · exact ⟨2, .inr (congrArg some (byte_eq_of_fields hput.symm h3.symm))⟩
  · exact ⟨3, .inr (congrArg some (byte_eq_of_fields hput.symm h4.symm))⟩
  · exact ⟨4, .inr (congrArg some (byte_eq_of_fields hput.symm h5.symm))⟩

/-- A byte is a get command, a put command, or none. -/
theorem commandOf_cases (b : Byte) :
    commandOf b = none ∨ (∃ k, getCommand k = some b ∧ commandOf b = some (.get, k)) ∨
      ∃ k, putCommand k = some b ∧ commandOf b = some (.put, k) := by
  rcases hd : decodeCmd8 b with _ | i
  · exact .inl (by rw [commandOf, hd])
  · obtain ⟨k, hget | hput⟩ := command_of_decodeCmd8 hd
    · exact .inr (.inl ⟨k, hget, commandOf_of_getCommand hget⟩)
    · exact .inr (.inr ⟨k, hput, commandOf_of_putCommand hput⟩)

/-! ### The cells -/

variable {d : Framestore} {k c : Byte} {w h : Dim}

/-- The cells are the four slots': the link has no part in them. -/
@[simp] theorem Framestore.cell_link (d : Framestore) (l : Link) (j : Byte) :
    ({ d with link := l } : Framestore).cell j = d.cell j := rfl

theorem Framestore.cell_setCell_self (hk : k = 1 ∨ k = 2 ∨ k = 3 ∨ k = 4) (d : Framestore)
    (x : SlotCell) : (d.setCell k x).cell k = x := by
  rcases hk with rfl | rfl | rfl | rfl <;> rfl

theorem Framestore.cell_setCell_ne {j : Byte} (hj : j ≠ k) (d : Framestore) (x : SlotCell) :
    (d.setCell k x).cell j = d.cell j := by
  simp only [Framestore.setCell]
  split_ifs with h1 h2 h3 h4
  · subst h1
    simp only [Framestore.cell, if_neg hj]
  · subst h2
    simp only [Framestore.cell, if_neg hj]
  · subst h3
    simp only [Framestore.cell, if_neg hj]
  · subst h4
    simp only [Framestore.cell, if_neg hj]
  · rfl

/-! ### A command byte at an exchange boundary -/

theorem Framestore.take_ready (hlink : d.link = .ready) (b : Byte) :
    d.take b = d.takeCommand b := by
  simp only [Framestore.take, hlink]

theorem Framestore.take_put (hlink : d.link = .ready) (hc : putCommand k = some c) :
    d.take c = ({ d.setCell k .unspecified with link := .header k [] }, [putAckByte]) := by
  simp only [Framestore.take_ready hlink, Framestore.takeCommand, commandOf_of_putCommand hc]

theorem Framestore.take_get_holds {p : List Byte} (hlink : d.link = .ready)
    (hc : getCommand k = some c) (hcell : d.cell k = .holds w h p) :
    d.take c = (d, getAckByte :: (headerBytes w h ++ p)) := by
  simp only [Framestore.take_ready hlink, Framestore.takeCommand, commandOf_of_getCommand hc, hcell,
    SlotCell.reply]

theorem SlotCell.reply_eq_none {x : SlotCell} (hx : ∀ w h p, x ≠ .holds w h p) :
    x.reply = none := by
  cases x with
  | empty => rfl
  | unspecified => rfl
  | holds w h p => exact absurd rfl (hx w h p)

theorem Framestore.take_get_other (hlink : d.link = .ready) (hc : getCommand k = some c)
    (hcell : ∀ w h p, d.cell k ≠ .holds w h p) : d.take c = ({ d with link := .lost }, []) := by
  simp only [Framestore.take_ready hlink, Framestore.takeCommand, commandOf_of_getCommand hc,
    SlotCell.reply_eq_none hcell]

/-- Settles O58: the reply of a cell that holds a frame, and silence of any other. -/
theorem referenceFramestoreFetches : Obligations.ReferenceFramestoreFetches := by
  intro d k c hlink hc
  refine ⟨fun w h p hcell => Framestore.take_get_holds hlink hc hcell, fun hcell => ?_⟩
  rw [Framestore.take_get_other hlink hc hcell]
  exact ⟨rfl, fun j => rfl⟩

/-! ### A turn changes one cell at most -/

theorem Framestore.takeCommand_cell (d : Framestore) {b j : Byte} (hj : putCommand j ≠ some b) :
    (d.takeCommand b).1.cell j = d.cell j := by
  obtain hcmd | ⟨k, -, hcmd⟩ | ⟨k, hput, hcmd⟩ := commandOf_cases b
  · simp [Framestore.takeCommand, hcmd]
  · simp only [Framestore.takeCommand, hcmd]
    cases (d.cell k).reply <;> rfl
  · have hne : j ≠ k := fun hjk => hj (hjk ▸ hput)
    simpa only [Framestore.takeCommand, hcmd, Framestore.cell_link] using
      Framestore.cell_setCell_ne hne d .unspecified

theorem Framestore.takeHeader_cell (k : Byte) (got : List Byte) (d : Framestore) (j : Byte) :
    (d.takeHeader k got).1.cell j = d.cell j := by
  simp only [Framestore.takeHeader]
  split <;> rfl

theorem Framestore.take_cell (d : Framestore) {b j : Byte} (hj : putCommand j ≠ some b) :
    (d.take b).1.cell j = d.cell j := by
  cases hlink : d.link <;> simp only [Framestore.take, hlink]
  case ready => exact d.takeCommand_cell hj
  case header k got => exact Framestore.takeHeader_cell k _ d j
  case payload k w h got => split <;> rfl
  case storing => rfl

/-- The end of an exchange leaves every cell but that of a payload received whole. -/
theorem Framestore.settle_cell (s : State) (d : Framestore) {j : Byte}
    (hj : ∀ w h p, d.link ≠ .storing j w h p) : (d.settle s).cell j = d.cell j := by
  cases hlink : d.link <;> simp only [Framestore.settle, hlink]
  case header => split <;> rfl
  case payload => split <;> rfl
  case storing k w h p =>
    have hne : j ≠ k := fun hjk => hj w h p (hjk ▸ hlink)
    split_ifs
    · exact Framestore.cell_setCell_ne hne d _
    · rfl
    · rfl

/-- Settles O59: a byte taken and the end of an exchange each change the addressed cell at most. -/
theorem referenceSlotsAreIndependent : Obligations.ReferenceSlotsAreIndependent := by
  intro d s b j
  constructor
  · contrapose!
    exact d.take_cell
  · contrapose!
    exact d.settle_cell s

/-! ### A whole put exchange -/

theorem Framestore.takeAll_cons {d₁ d₂ : Framestore} {b : Byte} {bs r₁ r₂ : List Byte}
    (hb : d.take b = (d₁, r₁)) (hbs : d₁.takeAll bs = (d₂, r₂)) :
    d.takeAll (b :: bs) = (d₂, r₁ ++ r₂) := by
  simp only [Framestore.takeAll, hb, hbs]

theorem Framestore.takeAll_append {d₁ d₂ : Framestore} {bs cs r₁ r₂ : List Byte}
    (hbs : d.takeAll bs = (d₁, r₁)) (hcs : d₁.takeAll cs = (d₂, r₂)) :
    d.takeAll (bs ++ cs) = (d₂, r₁ ++ r₂) := by
  induction bs generalizing d r₁ with
  | nil =>
    cases hbs
    exact hcs
  | cons b bs ih =>
    cases hbs
    rw [List.cons_append, List.append_assoc]
    exact Framestore.takeAll_cons rfl (ih rfl)

/-- The four header bytes, then the payload is awaited. -/
theorem Framestore.takeAll_header (hlink : d.link = .header k []) :
    d.takeAll (headerBytes w h) = ({ d with link := .payload k w h [] }, []) := by
  have hw := (beDim_eq_iff _ _ w).2 ((dim_bytes_iff w _ _).1 ⟨rfl, rfl⟩)
  have hh := (beDim_eq_iff _ _ h).2 ((dim_bytes_iff h _ _).1 ⟨rfl, rfl⟩)
  simp [headerBytes, Framestore.takeAll, Framestore.take, Framestore.takeHeader, hlink, hw, hh]

/-- The rest of the payload, byte by byte: the last one is acknowledged. -/
theorem Framestore.takeAll_payload {got p : List Byte} (hlink : d.link = .payload k w h got)
    (hpos : 0 < p.length) (hlen : got.length + p.length = packedLength w h) :
    d.takeAll p = ({ d with link := .storing k w h (got ++ p) }, [putAckByte]) := by
  induction p generalizing d got with
  | nil => cases hpos
  | cons b p ih =>
    rw [List.length_cons] at hlen
    cases p with
    | nil => simp [Framestore.takeAll, Framestore.take, hlink, ← hlen]
    | cons b' p =>
      rw [List.length_cons] at hlen
      have hb : d.take b = ({ d with link := .payload k w h (got ++ [b]) }, []) := by
        simp only [Framestore.take, hlink]
        exact if_neg (by omega)
      have hrest := ih (d := { d with link := .payload k w h (got ++ [b]) }) rfl (by simp)
        (by simp; omega)
      simpa using Framestore.takeAll_cons hb hrest

/-- The bytes of a put exchange, from a command byte at the boundary to the payload's last. -/
theorem Framestore.takeAll_put {p : List Byte} (hlink : d.link = .ready)
    (hc : putCommand k = some c) (hpos : 0 < p.length) (hlen : p.length = packedLength w h) :
    d.takeAll (c :: (headerBytes w h ++ p)) =
      ({ d.setCell k .unspecified with link := .storing k w h p }, [putAckByte, putAckByte]) :=
  Framestore.takeAll_cons (Framestore.take_put hlink hc)
    (Framestore.takeAll_append (Framestore.takeAll_header rfl)
      (Framestore.takeAll_payload (got := []) rfl hpos (by simpa using hlen)))

/-- The core has seen the exchange through: the frame is stored. -/
theorem Framestore.settle_stored {s : State} {p : List Byte} (hlink : d.link = .storing k w h p)
    (hidle : s.phase = .idle) (hdone : s.status = .done) :
    d.settle s = { d.setCell k (.holds w h p) with link := .ready } := by
  simp only [Framestore.settle, hlink, hidle, hdone, if_true]

/-- Settles O57: the bytes taken, then the end of the exchange; both set the addressed cell alone. -/
theorem referenceFramestoreStores : Obligations.ReferenceFramestoreStores := by
  intro d k c w h p s hlink hc hpos hlen hidle hdone
  obtain ⟨hk, -⟩ := slot_of_putCommand hc
  refine ⟨_, Framestore.takeAll_put hlink hc hpos hlen, Framestore.cell_setCell_self hk d _, ?_⟩
  rw [Framestore.settle_stored rfl hidle hdone]
  refine ⟨Framestore.cell_setCell_self hk _ _, rfl, fun j hj => ?_⟩
  have htaken := Framestore.cell_setCell_ne hj d .unspecified
  exact ⟨htaken, (Framestore.cell_setCell_ne hj _ _).trans htaken⟩

end Sys2Proof.Machine
end

section
/-! PROOFS. The decoder and the encoder are inverse (R61, R62, R68, R69): each channel's decoder
reads nothing but the encodings, and each encoding is read as its instruction. -/

namespace Sys2Proof.Machine

variable {b : Byte} {i : Instr}

/-! ### What each channel's decoder reads -/

/-- A byte with a command's fields is that command's encoding (R61). -/
theorem encode_of_decodeCmd8 (h : decodeCmd8 b = some i) : i.wf = true ∧ encode i = [b] := by
  obtain ⟨k, hget | hput⟩ := command_of_decodeCmd8 h
  · obtain ⟨rfl | rfl | rfl | rfl, rfl⟩ := slot_of_getCommand hget <;> cases h <;> exact ⟨rfl, rfl⟩
  · obtain ⟨rfl | rfl | rfl | rfl, rfl⟩ := slot_of_putCommand hput <;> cases h <;> exact ⟨rfl, rfl⟩

/-- The two acknowledgement values (R62). -/
theorem encode_of_decodeAck8 (h : decodeAck8 b = some i) : i.wf = true ∧ encode i = [b] := by
  simp only [decodeAck8] at h
  split_ifs at h with hget hput
  · cases h
    exact ⟨rfl, congrArg ([·]) hget.symm⟩
  · cases h
    exact ⟨rfl, congrArg ([·]) hput.symm⟩

/-- A byte below 4 is the code of its operation (R13, R68). -/
theorem encode_of_decodeOpByte (h : decodeOpByte b = some i) : i.wf = true ∧ encode i = [b] := by
  simp only [decodeOpByte] at h
  split_ifs at h with hlt
  have hb : b = 0 ∨ b = 1 ∨ b = 2 ∨ b = 3 := by bv_omega
  rcases hb with rfl | rfl | rfl | rfl <;> cases h <;> exact ⟨rfl, rfl⟩

/-- The decoder takes one byte, which one of the three channels' decoders reads. -/
theorem decode_cons_eq_ok {bs rest : List Byte} (h : decode (b :: bs) = .ok (i, rest)) :
    rest = bs ∧ (decodeCmd8 b = some i ∨ decodeAck8 b = some i ∨ decodeOpByte b = some i) := by
  simp only [decode] at h
  split at h
  · cases h
    exact ⟨rfl, .inl ‹_›⟩
  · split at h
    · cases h
      exact ⟨rfl, .inr (.inl ‹_›)⟩
    · split at h
      · cases h
        exact ⟨rfl, .inr (.inr ‹_›)⟩
      · cases h

/-! ### Both directions -/

/-- What decodes is an encoding (R69: no other byte is given a meaning). -/
theorem encode_of_decode {bs rest : List Byte} (h : decode bs = .ok (i, rest)) :
    i.wf = true ∧ bs = encode i ++ rest := by
  cases bs with
  | nil => cases h
  | cons b bs =>
    obtain ⟨rfl, hread⟩ := decode_cons_eq_ok h
    have henc : i.wf = true ∧ encode i = [b] := by
      rcases hread with hcmd | hack | hop
      · exact encode_of_decodeCmd8 hcmd
      · exact encode_of_decodeAck8 hack
      · exact encode_of_decodeOpByte hop
    obtain ⟨hwf, hbyte⟩ := henc
    exact ⟨hwf, by rw [hbyte, List.singleton_append]⟩

/-- An encoding decodes to its instruction; the channels' values do not meet (R61, R62, R68). -/
theorem decode_encode (hwf : i.wf = true) (rest : List Byte) :
    decode (encode i ++ rest) = .ok (i, rest) := by
  cases i with
  | ycbcr2rgb | rgb2ycbcr | avg2 => cases hwf
  | get1 | get2 | get3 | get4 | put1 | put2 | put3 | put4 | getack | putack | get | put | decode
    | encode => rfl

/-- Settles O1: `encode_of_decode` and `decode_encode` are the two directions. -/
theorem decodeEncodeAgree : Obligations.DecodeEncodeAgree := by
  intro bs i rest
  refine ⟨encode_of_decode, ?_⟩
  rintro ⟨hwf, rfl⟩
  exact decode_encode hwf rest

/-- Settles O2: the fourteen encodings by `decode_encode`, the four other bytes evaluated. -/
theorem opcodeMapDecodes : Obligations.OpcodeMapDecodes := by
  have hmap (i : Instr) (hwf : i.wf = true) := decode_encode hwf []
  exact ⟨⟨hmap .get1 rfl, hmap .get2 rfl, hmap .get3 rfl, hmap .get4 rfl, hmap .put1 rfl,
      hmap .put2 rfl, hmap .put3 rfl, hmap .put4 rfl⟩,
    ⟨hmap .getack rfl, hmap .putack rfl⟩, ⟨rfl, rfl, rfl, rfl⟩, ⟨rfl, rfl, rfl, rfl⟩⟩

end Sys2Proof.Machine
end

section
/-! PROOFS. Command bytes (R61, R120, R121): their formula, their fields, and the step that puts one
on TX. -/

namespace Sys2Proof.Machine

variable {s t : State} {k c : Byte}

/-! ### By formula and by fields -/

/-- A slot's command byte is the one that R61's formula names. -/
theorem commandByte_eq_iff {base : Byte} (hbase : base.toNat ≤ 0x14) (hk : k.toNat ≤ 4) :
    commandByte base k = c ↔ c.toNat = base.toNat + k.toNat * 0x10 := by
  rw [← BitVec.toNat_inj, commandByte_toNat hbase hk, eq_comm]

theorem getCommand_eq_some_iff : getCommand k = some c ↔
    (1 ≤ k.toNat ∧ k.toNat ≤ 4) ∧ c.toNat = 0x11 + k.toNat * 0x10 := by
  by_cases hk : 1 ≤ k.toNat ∧ k.toNat ≤ 4
  · rw [getCommand_of_slot hk, Option.some_inj, commandByte_eq_iff (by decide) hk.2,
      and_iff_right hk]
    rfl
  · simp [getCommand_none (k := k) (by omega), hk]

theorem putCommand_eq_some_iff : putCommand k = some c ↔
    (1 ≤ k.toNat ∧ k.toNat ≤ 4) ∧ c.toNat = 0x14 + k.toNat * 0x10 := by
  by_cases hk : 1 ≤ k.toNat ∧ k.toNat ≤ 4
  · rw [putCommand_of_slot hk, Option.some_inj, commandByte_eq_iff (by decide) hk.2,
      and_iff_right hk]
    rfl
  · simp [putCommand_none (k := k) (by omega), hk]

theorem commandOf_eq_get_iff : commandOf c = some (.get, k) ↔ getCommand k = some c := by
  refine ⟨fun h => ?_, commandOf_of_getCommand⟩
  obtain hnone | ⟨j, hj, hof⟩ | ⟨j, -, hof⟩ := commandOf_cases c
  · cases hnone.symm.trans h
  · cases hof.symm.trans h
    exact hj
  · cases hof.symm.trans h

theorem commandOf_eq_put_iff : commandOf c = some (.put, k) ↔ putCommand k = some c := by
  refine ⟨fun h => ?_, commandOf_of_putCommand⟩
  obtain hnone | ⟨j, -, hof⟩ | ⟨j, hj, hof⟩ := commandOf_cases c
  · cases hnone.symm.trans h
  · cases hof.symm.trans h
  · cases hof.symm.trans h
    exact hj

/-- Settles O3: the two maps by formula, and their inverses by fields. -/
theorem commandBytesByFormula : Obligations.CommandBytesByFormula := fun _ _ =>
  ⟨getCommand_eq_some_iff, putCommand_eq_some_iff, commandOf_eq_get_iff, commandOf_eq_put_iff⟩

/-- The get command bytes, written out. -/
theorem getCommand_mem (h : getCommand k = some c) : c ∈ [(0x21 : Byte), 0x31, 0x41, 0x51] := by
  obtain ⟨rfl | rfl | rfl | rfl, rfl⟩ := slot_of_getCommand h <;> decide

/-- The put command bytes, written out. -/
theorem putCommand_mem (h : putCommand k = some c) : c ∈ [(0x24 : Byte), 0x34, 0x44, 0x54] := by
  obtain ⟨rfl | rfl | rfl | rfl, rfl⟩ := slot_of_putCommand h <;> decide

/-! ### The command instructions -/

theorem getCommandInstr_sent {as : List TxAnswer} (hp : s.phase = .gCmd)
    (htx : s.txAns = .txOk :: as) (k : Byte) : getCommandInstr k s =
      .next { s with tx := s.tx ++ [commandByte getBase k], txAns := as, phase := .gAck } :=
  (if_pos hp).trans (withTx_ok htx)

theorem putCommandInstr_sent {as : List TxAnswer} (hp : s.phase = .pCmd)
    (htx : s.txAns = .txOk :: as) (k : Byte) : putCommandInstr k s =
      .next { s with tx := s.tx ++ [commandByte putBase k], txAns := as, phase := .pAck1 } :=
  (if_pos hp).trans (withTx_ok htx)

/-- Settles O16: one instruction for the four slots. -/
theorem getCommandsSendTheirByte : Obligations.GetCommandsSendTheirByte := by
  intro s as hp htx
  have hsent := getCommandInstr_sent hp htx
  exact ⟨hsent 1, hsent 2, hsent 3, hsent 4⟩

/-- Settles O17: one instruction for the four slots. -/
theorem putCommandsSendTheirByte : Obligations.PutCommandsSendTheirByte := by
  intro s as hp htx
  have hsent := putCommandInstr_sent hp htx
  exact ⟨hsent 1, hsent 2, hsent 3, hsent 4⟩

/-! ### The first byte of an exchange -/

/-- START through the host port puts nothing on TX unless it runs the sequencer's move. -/
theorem fetchStart_sends (h : (fetchStart s).outcome = .next t) (htx : t.tx ≠ s.tx) :
    (fetchSequencer s).outcome = .next t := by
  rw [outcome_fetchStart] at h
  split at h
  · cases h
  · split at h
    · cases h
    · obtain ⟨o, hstart⟩ | hseq := exec_decodeOpreq_next h
      · obtain ⟨-, -, -, rfl⟩ := start_next hstart
        exact absurd (State.begin_tx s o) htx
      · exact hseq

theorem fetchInput_sends {i : Input} (h : (fetchInput i s).outcome = .next t)
    (htx : t.tx ≠ s.tx) : (fetchSequencer s).outcome = .next t := by
  cases i with
  | proceed => exact h
  | writeReg n v =>
    simp only [fetchInput] at h
    split at h
    · exact fetchStart_sends h htx
    · obtain ⟨-, -, rfl | rfl | rfl | rfl | rfl | rfl | rfl⟩ := hostWriteReg_next h <;>
        exact absurd rfl htx
  | readReg n =>
    obtain ⟨-, _, _, rfl⟩ := hostReadReg_next h
    exact absurd (by simp) htx
  | writeByte buf k b =>
    obtain ⟨-, rfl⟩ := hostWriteByte_next h
    exact absurd (by simp) htx
  | readByte buf k =>
    cases h
    exact absurd (by simp) htx
  | load buf bs =>
    obtain ⟨-, -, rfl⟩ := hostLoad_next h
    exact absurd (by simp) htx
  | reset =>
    cases h
    exact absurd rfl htx

/-- A step that puts anything on TX is the sequencer's move (R54, R131). -/
theorem step_sends (h : step s = .next t) (htx : t.tx ≠ s.tx) :
    ∃ is, (fetchSequencer { s with inputs := is }).outcome = .next t := by
  rcases hi : s.inputs with _ | ⟨i, rest⟩
  · refine ⟨[], ?_⟩
    rw [← h, step_of_no_input hi, ← hi]
  · rw [step_of_input hi] at h
    exact ⟨rest, fetchInput_sends h htx⟩

theorem TxStops.tx_eq {o : HostOp} (hstop : TxStops o s t) : t.tx = s.tx := by
  obtain ⟨-, rfl⟩ | ⟨_, _, _, -, -, rfl⟩ := hstop
  · rfl
  · simp

/-- What G_CMD's step puts on TX is the get command byte of SLOT (R120). -/
theorem gCmd_sends (hp : s.phase = .gCmd) (h : (fetchSequencer s).outcome = .next t)
    (htx : t.tx = s.tx ++ [c]) :
    c ∈ [(0x21 : Byte), 0x31, 0x41, 0x51] ∧ s.slot.bind getCommand = some c := by
  rw [outcome_fetchSequencer, hp] at h
  have hne : t.tx ≠ s.tx := by simp [htx]
  obtain ⟨k, hslot, ⟨-, rfl⟩ | ⟨c', hc, hstop | ⟨as, -, rfl⟩⟩⟩ := stepGCmd_next h
  · exact absurd (by simp) hne
  · exact absurd hstop.tx_eq hne
  · obtain rfl : c' = c := by simpa [State.sent] using htx
    exact ⟨getCommand_mem hc, by rw [hslot, Option.bind_some, hc]⟩

/-- What P_CMD's step puts on TX is the put command byte of SLOT (R121). -/
theorem pCmd_sends (hp : s.phase = .pCmd) (h : (fetchSequencer s).outcome = .next t)
    (htx : t.tx = s.tx ++ [c]) :
    c ∈ [(0x24 : Byte), 0x34, 0x44, 0x54] ∧ s.slot.bind putCommand = some c := by
  rw [outcome_fetchSequencer, hp] at h
  have hne : t.tx ≠ s.tx := by simp [htx]
  obtain ⟨k, hslot, ⟨-, rfl⟩ | ⟨c', hc, hstop | ⟨as, -, rfl⟩⟩⟩ := stepPCmd_next h
  · exact absurd (by simp) hne
  · exact absurd hstop.tx_eq hne
  · obtain rfl : c' = c := by simpa [State.sent] using htx
    exact ⟨putCommand_mem hc, by rw [hslot, Option.bind_some, hc]⟩

/-- Settles O48: a byte on TX is the sequencer's, so in a command phase it is SLOT's command byte. -/
theorem onlyCommandBytesOpenAnExchange : Obligations.OnlyCommandBytesOpenAnExchange := by
  intro s t b h htx
  obtain ⟨is, hseq⟩ := step_sends h (by simp [htx])
  exact ⟨fun hp => gCmd_sends (s := { s with inputs := is }) hp hseq htx,
    fun hp => pCmd_sends (s := { s with inputs := is }) hp hseq htx⟩

end Sys2Proof.Machine
end

section
/-! PROOFS. The colour conversions (R80 to R86): CD is SAT8 over the rationals, each channel is SAT8 of
its row of the matrix product, and the scaled sums stay in their ranges. -/

namespace Sys2Proof.Machine

variable {s : Int}

/-! ### CD as an integer function of the scaled sum -/

/-- The clamped quotient fits a byte, so the byte holds it without wrap. -/
theorem clampDiv_toNat : ((clampDiv s).toNat : Int) = max 0 (min s 255000) / 1000 := by
  rw [clampDiv, BitVec.toNat_ofInt]
  omega

theorem clampDiv_of_neg (h : s < 0) : (clampDiv s).toNat = 0 := by
  have := clampDiv_toNat (s := s)
  omega

theorem clampDiv_of_ge (h : 255000 ≤ s) : (clampDiv s).toNat = 255 := by
  have := clampDiv_toNat (s := s)
  omega

theorem clampDiv_of_inRange (h0 : 0 ≤ s) (h1 : s ≤ 255000) :
    ((clampDiv s).toNat : Int) = s / 1000 := by
  rw [clampDiv_toNat, min_eq_left h1, max_eq_right h0]

/-! ### CD as SAT8 over the rationals -/

/-- Clamping commutes with the scaling by 1000 (R84). -/
theorem clamp_scaled (s : Int) :
    max 0 (min 255 ((s : ℚ) / 1000)) = ((max 0 (min s 255000) : Int) : ℚ) / 1000 := by
  have hpos : (0 : ℚ) ≤ 1000 := by norm_num
  push_cast
  rw [← max_div_div_right hpos, ← min_div_div_right hpos, min_comm]
  norm_num

/-- The floor of an integer over 1000 is its quotient. -/
theorem floor_scaled (s : Int) : ⌊(s : ℚ) / 1000⌋ = s / 1000 :=
  Rat.floor_intCast_div_natCast s 1000

/-- CD of a sum is SAT8 of the exact rational that the sum is 1000 times of (R81, R84). -/
theorem clampDiv_eq_sat8 {q : ℚ} (hq : (s : ℚ) = 1000 * q) :
    ((clampDiv s).toNat : Int) = ⌊max 0 (min 255 q)⌋ := by
  have hdiv : q = (s : ℚ) / 1000 := by linarith
  rw [hdiv, clamp_scaled, floor_scaled, clampDiv_toNat]

/-- Settles O5: SAT8 as one formula and in R81's three cases. -/
theorem clampDivIsSat8 : Obligations.ClampDivIsSat8 := by
  intro s
  refine ⟨clampDiv_eq_sat8 (by ring), fun hneg => clampDiv_of_neg ?_,
    fun hbig => clampDiv_of_ge ?_, fun h0 h1 => ?_⟩
  · have : (s : ℚ) < 0 := by linarith
    exact_mod_cast this
  · have : (255000 : ℚ) ≤ s := by linarith
    exact_mod_cast this
  · have hlow : (0 : ℚ) ≤ s := by linarith
    have hhigh : (s : ℚ) ≤ 255000 := by linarith
    rw [floor_scaled, clampDiv_of_inRange (by exact_mod_cast hlow) (by exact_mod_cast hhigh)]

/-! ### The conversions as matrix products -/

/-- Each channel of a conversion is SAT8 of its own rational, when the sums are 1000 times those. -/
theorem clampTriple_eq_sat8 {t : Int × Int × Int} {q₁ q₂ q₃ : ℚ} (h₁ : (t.1 : ℚ) = 1000 * q₁)
    (h₂ : (t.2.1 : ℚ) = 1000 * q₂) (h₃ : (t.2.2 : ℚ) = 1000 * q₃) :
    ((clampTriple t).1.toNat : Int) = ⌊max 0 (min 255 q₁)⌋ ∧
    ((clampTriple t).2.1.toNat : Int) = ⌊max 0 (min 255 q₂)⌋ ∧
    ((clampTriple t).2.2.toNat : Int) = ⌊max 0 (min 255 q₃)⌋ :=
  ⟨clampDiv_eq_sat8 h₁, clampDiv_eq_sat8 h₂, clampDiv_eq_sat8 h₃⟩

theorem exec_ycbcr2rgb (y cb cr : Byte) (s : State) : exec (.ycbcr2rgb y cb cr) s =
    .next { s with dpOut :=
      [(ycbcr2rgb y cb cr).1, (ycbcr2rgb y cb cr).2.1, (ycbcr2rgb y cb cr).2.2] } := rfl

theorem exec_rgb2ycbcr (r g b : Byte) (s : State) : exec (.rgb2ycbcr r g b) s =
    .next { s with dpOut :=
      [(rgb2ycbcr r g b).1, (rgb2ycbcr r g b).2.1, (rgb2ycbcr r g b).2.2] } := rfl

/-- Settles O6: the scaled sums are 1000 times the rows of M · (y-16, cb-128, cr-128). -/
theorem ycbcrToRgbReturnsMatrixProduct : Obligations.YcbcrToRgbReturnsMatrixProduct := by
  intro y cb cr s
  refine ⟨_, _, _, exec_ycbcr2rgb y cb cr s, clampTriple_eq_sat8 ?_ ?_ ?_⟩ <;>
    (simp only [rgbSums]; push_cast; ring)

/-- Settles O7: the scaled sums are 1000 times the rows of (16, 128, 128) + N · (r, g, b). -/
theorem rgbToYcbcrReturnsMatrixProduct : Obligations.RgbToYcbcrReturnsMatrixProduct := by
  intro r g b s
  refine ⟨_, _, _, exec_rgb2ycbcr r g b s, clampTriple_eq_sat8 ?_ ?_ ?_⟩ <;>
    (simp only [ycbcrSums]; push_cast; ring)

/-! ### The ranges of the scaled sums -/

/-- The ranges of YCBCR2RGB's sums (R86's table). -/
theorem rgbSums_range (y cb cr : Byte) :
    (-248128 ≤ (rgbSums y cb cr).1 ∧ (rgbSums y cb cr).1 ≤ 505907) ∧
    (-113366 ≤ (rgbSums y cb cr).2.1 ∧ (rgbSums y cb cr).2.1 ≤ 373684) ∧
    (-288960 ≤ (rgbSums y cb cr).2.2 ∧ (rgbSums y cb cr).2.2 ≤ 546420) := by
  have hy := y.isLt
  have hcb := cb.isLt
  have hcr := cr.isLt
  simp only [rgbSums]
  omega

/-- The ranges of RGB2YCBCR's sums (R86's table). -/
theorem ycbcrSums_range (r g b : Byte) :
    (16000 ≤ (ycbcrSums r g b).1 ∧ (ycbcrSums r g b).1 ≤ 235045) ∧
    (15800 ≤ (ycbcrSums r g b).2.1 ∧ (ycbcrSums r g b).2.1 ≤ 239945) ∧
    (16055 ≤ (ycbcrSums r g b).2.2 ∧ (ycbcrSums r g b).2.2 ≤ 239945) := by
  have hr := r.isLt
  have hg := g.isLt
  have hb := b.isLt
  simp only [ycbcrSums]
  omega

/-- A sum within the clamp's range is not clamped: its byte is its floor, between the sum's bounds. -/
theorem clampDiv_between {lo hi : Nat} (hlo : 1000 * (lo : Int) ≤ s) (hhi : s < 1000 * (hi + 1 : Int))
    (h255 : hi < 255) : ((clampDiv s).toNat : Int) = s / 1000 ∧
      lo ≤ (clampDiv s).toNat ∧ (clampDiv s).toNat ≤ hi := by
  have hfloor := clampDiv_of_inRange (s := s) (by omega) (by omega)
  omega

/-- Settles O8: the ranges of the sums, of which the encode direction's lie within the clamp's. -/
theorem scaledSumsStayInRange : Obligations.ScaledSumsStayInRange := by
  intro a b c
  obtain ⟨hr, hg, hb⟩ := rgbSums_range a b c
  obtain ⟨hy, hcb, hcr⟩ := ycbcrSums_range a b c
  obtain ⟨hyFloor, hyBounds⟩ := clampDiv_between (s := (ycbcrSums a b c).1)
    (lo := 16) (hi := 235) (by omega) (by omega) (by omega)
  obtain ⟨hcbFloor, hcbBounds⟩ := clampDiv_between (s := (ycbcrSums a b c).2.1)
    (lo := 15) (hi := 239) (by omega) (by omega) (by omega)
  obtain ⟨hcrFloor, hcrBounds⟩ := clampDiv_between (s := (ycbcrSums a b c).2.2)
    (lo := 16) (hi := 239) (by omega) (by omega) (by omega)
  exact ⟨hr, hg, hb, hy, hcb, hcr, ⟨hyFloor, hcbFloor, hcrFloor⟩, hyBounds, hcbBounds, hcrBounds⟩

end Sys2Proof.Machine
end

section
/-! PROOFS. The pixel codec (R100 to R107): AVG2 is the truncated mean, group g of the output is the
conversion of group g of the input, the lengths of the two conversions agree, and a constant grey comes
back within 4. -/

namespace Sys2Proof.Machine

/-! ### AVG2 (R100) -/

/-- The mean of two bytes fits a byte, so the byte holds it without wrap. -/
theorem avg2_toNat (c1 c2 : Byte) : (avg2 c1 c2).toNat = (c1.toNat + c2.toNat) / 2 := by
  have h1 := c1.isLt
  have h2 := c2.isLt
  rw [avg2, BitVec.toNat_ofNat, Nat.mod_eq_of_lt (by omega)]

theorem avg2_comm (c1 c2 : Byte) : avg2 c1 c2 = avg2 c2 c1 := by
  rw [avg2, avg2, Nat.add_comm]

@[simp] theorem avg2_self (c : Byte) : avg2 c c = c :=
  BitVec.eq_of_toNat_eq (by rw [avg2_toNat]; omega)

theorem exec_avg2 (c1 c2 : Byte) (s : State) :
    exec (.avg2 c1 c2) s = .next { s with dpOut := [avg2 c1 c2] } := rfl

/-- Settles O9: the byte AVG2 returns is the one whose value is the truncated mean. -/
theorem avg2ReturnsTruncatedMean : Obligations.Avg2ReturnsTruncatedMean := fun c1 c2 s =>
  ⟨avg2 c1 c2, exec_avg2 c1 c2 s, avg2_toNat c1 c2, by rw [exec_avg2, exec_avg2, avg2_comm]⟩

/-! ### One group of the output from one group of the input (R101 to R103) -/

/-- Leaving out g groups of the input leaves out g groups of the output. -/
theorem drop_decodeGroups {p : List Byte} {g : Nat} (hg : 4 * g ≤ p.length) :
    (decodeGroups p).drop (6 * g) = decodeGroups (p.drop (4 * g)) := by
  have htake : (p.take (4 * g)).length = 4 * g := List.length_take_of_le hg
  have hrun : (decodeGroups (p.take (4 * g))).length = 6 * g := by
    rw [length_decodeGroups, htake]
    omega
  conv_lhs => rw [← List.take_append_drop (4 * g) p]
  rw [decodeGroups_append (by omega), List.drop_left' hrun]

theorem drop_encodeGroups {f : List Byte} {g : Nat} (hg : 6 * g ≤ f.length) :
    (encodeGroups f).drop (4 * g) = encodeGroups (f.drop (6 * g)) := by
  have htake : (f.take (6 * g)).length = 6 * g := List.length_take_of_le hg
  have hrun : (encodeGroups (f.take (6 * g))).length = 4 * g := by
    rw [length_encodeGroups, htake]
    omega
  conv_lhs => rw [← List.take_append_drop (6 * g) f]
  rw [encodeGroups_append (by omega), List.drop_left' hrun]

theorem exists_packedGroup {p : List Byte} (hp : 4 ≤ p.length) :
    ∃ y1 cb y2 cr rest, p = y1 :: cb :: y2 :: cr :: rest := by
  match p, hp with
  | y1 :: cb :: y2 :: cr :: rest, _ => exact ⟨y1, cb, y2, cr, rest, rfl⟩

theorem exists_pixelPair {f : List Byte} (hf : 6 ≤ f.length) :
    ∃ r1 g1 b1 r2 g2 b2 rest, f = r1 :: g1 :: b1 :: r2 :: g2 :: b2 :: rest := by
  match f, hf with
  | r1 :: g1 :: b1 :: r2 :: g2 :: b2 :: rest, _ => exact ⟨r1, g1, b1, r2, g2, b2, rest, rfl⟩

/-- The byte at offset i of a list's part from k on, as the list's own byte. -/
theorem getElem?_of_drop {l m : List Byte} {k : Nat} (h : l.drop k = m) (i : Nat) :
    l[k + i]? = m[i]? := by
  rw [← h, List.getElem?_drop]

/-- Settles O10: from group g on, the output is the conversion of the input from group g on. -/
theorem decodeBufConvertsGroups : Obligations.DecodeBufConvertsGroups := by
  intro p
  refine ⟨decodeBuf_none, fun hp => ⟨_, decodeBuf_of_length hp, length_decodeGroups p, ?_⟩⟩
  intro g hg
  obtain ⟨y1, cb, y2, cr, rest, hgroup⟩ :=
    exists_packedGroup (p := p.drop (4 * g)) (by rw [List.length_drop]; omega)
  have hout : (decodeGroups p).drop (6 * g) = decodeGroup y1 cb y2 cr ++ decodeGroups rest := by
    rw [drop_decodeGroups (by omega), hgroup, decodeGroups]
  have hin := getElem?_of_drop hgroup
  have hconv := getElem?_of_drop hout
  exact ⟨y1, cb, y2, cr, ⟨hin 0, hin 1, hin 2, hin 3⟩,
    hconv 0, hconv 1, hconv 2, hconv 3, hconv 4, hconv 5⟩

/-- Settles O11: from group g on, the output is the conversion of the input from group g on. -/
theorem encodeBufConvertsGroups : Obligations.EncodeBufConvertsGroups := by
  intro f
  refine ⟨encodeBuf_none, fun hf => ⟨_, encodeBuf_of_length hf, length_encodeGroups f, ?_⟩⟩
  intro g hg
  obtain ⟨r1, g1, b1, r2, g2, b2, rest, hpair⟩ :=
    exists_pixelPair (f := f.drop (6 * g)) (by rw [List.length_drop]; omega)
  have hout : (encodeGroups f).drop (4 * g) =
      encodeGroup r1 g1 b1 r2 g2 b2 ++ encodeGroups rest := by
    rw [drop_encodeGroups (by omega), hpair, encodeGroups]
  have hin := getElem?_of_drop hpair
  have hconv := getElem?_of_drop hout
  exact ⟨r1, g1, b1, r2, g2, b2, ⟨hin 0, hin 1, hin 2, hin 3, hin 4, hin 5⟩,
    hconv 0, hconv 1, hconv 2, hconv 3⟩

/-! ### The lengths (R104) -/

/-- Settles O12: whole groups of one side are as many whole groups of the other, and W*H*2 bytes are
whole groups of four when W*H is even only. -/
theorem codecLengthsAgree : Obligations.CodecLengthsAgree := by
  refine ⟨fun p f h => ?_, fun f p h => ?_, fun w h p hlen => ⟨fun heven => ?_, fun hodd => ?_⟩⟩
  · obtain ⟨hp, rfl⟩ := decodeBuf_eq_some_iff.1 h
    have hfull := length_decodeGroups p
    refine ⟨by omega, _, encodeBuf_of_length (by omega), ?_⟩
    rw [length_encodeGroups]
    omega
  · obtain ⟨hf, rfl⟩ := encodeBuf_eq_some_iff.1 h
    have hpacked := length_encodeGroups f
    refine ⟨by omega, _, decodeBuf_of_length (by omega), ?_⟩
    rw [length_decodeGroups]
    omega
  · refine ⟨_, decodeBuf_of_length (by omega), ?_⟩
    rw [length_decodeGroups]
    omega
  · exact decodeBuf_none (by omega)

/-! ### Grey frames (R107) -/

/-- A byte that a grey v may come back as: at most 4 darker, never brighter. -/
def WithinFour (v x : Byte) : Prop := x.toNat ≤ v.toNat ∧ v.toNat ≤ x.toNat + 4

theorem clampDiv_withinFour {v : Byte} {s : Int} (hlo : 1000 * ((v.toNat : Int) - 4) ≤ s)
    (hhi : s < 1000 * ((v.toNat : Int) + 1)) : WithinFour v (clampDiv s) := by
  have hv := v.isLt
  have hbyte := clampDiv_toNat (s := s)
  constructor <;> omega

/-- A grey pixel's luma is 16 + 0.859 v truncated, and its chroma is 128 but for a Cb one lower when v is
not black: the rows of N sum to 0.859, -0.001 and 0. -/
theorem rgb2ycbcr_grey (v : Byte) :
    ((rgb2ycbcr v v v).1.toNat : Int) = (16000 + 859 * (v.toNat : Int)) / 1000 ∧
    ((rgb2ycbcr v v v).2.1.toNat : Int) = (128000 - (v.toNat : Int)) / 1000 ∧
    (rgb2ycbcr v v v).2.2.toNat = 128 := by
  obtain ⟨-, -, -, -, -, -, ⟨hy, hcb, hcr⟩, -⟩ := scaledSumsStayInRange v v v
  simp only [ycbcrSums] at hy hcb hcr
  omega

/-- The three sums of a grey pixel converted back are within the bounds before they are clamped: with
y = 16 + 0.859 v - e, where 0 ≤ e < 1, the luma term is 0.999876 v - 1.164 e. -/
theorem grey_pixel_withinFour (v : Byte) {y cb cr : Byte} (hpix : rgb2ycbcr v v v = (y, cb, cr)) :
    WithinFour v (ycbcr2rgb y cb cr).1 ∧ WithinFour v (ycbcr2rgb y cb cr).2.1 ∧
      WithinFour v (ycbcr2rgb y cb cr).2.2 := by
  have hv := v.isLt
  obtain ⟨hy, hcb, hcr⟩ := rgb2ycbcr_grey v
  simp only [hpix] at hy hcb hcr
  simp only [ycbcr2rgb, clampTriple, rgbSums]
  refine ⟨clampDiv_withinFour ?_ ?_, clampDiv_withinFour ?_ ?_, clampDiv_withinFour ?_ ?_⟩ <;> omega

theorem decodeGroups_encodeGroup_grey {v y cb cr : Byte} (hpix : rgb2ycbcr v v v = (y, cb, cr))
    (rest : List Byte) : decodeGroups (encodeGroup v v v v v v ++ rest) =
      decodeGroup y cb y cr ++ decodeGroups rest := by
  simp only [encodeGroup, hpix, avg2_self, List.cons_append, List.nil_append, decodeGroups]

/-- Every byte of a grey frame encoded and decoded, pair by pair. -/
theorem grey_frame_withinFour (v : Byte) (n : Nat) :
    ∀ x ∈ decodeGroups (encodeGroups (List.replicate (6 * n) v)), WithinFour v x := by
  induction n with
  | zero => simp [encodeGroups, decodeGroups]
  | succ n ih =>
    obtain ⟨⟨y, cb, cr⟩, hpix⟩ : ∃ t, rgb2ycbcr v v v = t := ⟨_, rfl⟩
    obtain ⟨hr, hg, hb⟩ := grey_pixel_withinFour v hpix
    have hpair : encodeGroups (List.replicate (6 * (n + 1)) v) =
        encodeGroup v v v v v v ++ encodeGroups (List.replicate (6 * n) v) := rfl
    rw [hpair, decodeGroups_encodeGroup_grey hpix]
    intro x hx
    rcases List.mem_append.1 hx with hx | hx
    · simp only [decodeGroup, List.mem_cons, List.not_mem_nil, or_false] at hx
      rcases hx with rfl | rfl | rfl | rfl | rfl | rfl <;> assumption
    · exact ih x hx

/-- Settles O14: a frame of pixel pairs encodes, its encoding decodes, and each pair of a grey v comes
back within 4. -/
theorem greyRoundTripWithinFour : Obligations.GreyRoundTripWithinFour := by
  intro v n
  have hfull : (List.replicate (6 * n) v).length = 6 * n := List.length_replicate
  have hpacked : (encodeGroups (List.replicate (6 * n) v)).length = n * 4 := by
    rw [length_encodeGroups, hfull]
    omega
  refine ⟨_, _, encodeBuf_of_length (by omega), decodeBuf_of_length (by omega), ?_,
    grey_frame_withinFour v n⟩
  rw [length_decodeGroups, hpacked]
  omega

end Sys2Proof.Machine
end

section
/-! PROOFS. The slot protocol when something fails (R120 to R124, R161, R200): a SLOT that is none, an
answer of the transport that is a failure, and no answer at all. -/

namespace Sys2Proof.Machine

variable {s : State} {o : HostOp}

/-! ### A SLOT outside 1 to 4 (R161) -/

theorem exec_get_gCmd (hp : s.phase = .gCmd) : exec .get s = stepGCmd s := by
  simp only [exec, execGet, hp]

theorem exec_put_pCmd (hp : s.phase = .pCmd) : exec .put s = stepPCmd s := by
  simp only [exec, execPut, hp]

theorem stepGCmd_invalidSlot {k : Byte} (hslot : s.slot = some k)
    (hk : k.toNat < 1 ∨ 4 < k.toNat) : stepGCmd s = raise .get .invalidSlot s := by
  simp only [stepGCmd, hslot, getCommand_none hk]

theorem stepPCmd_invalidSlot {k : Byte} (hslot : s.slot = some k)
    (hk : k.toNat < 1 ∨ 4 < k.toNat) : stepPCmd s = raise .put .invalidSlot s := by
  simp only [stepPCmd, hslot, putCommand_none hk]

/-- Settles O22: the step of a command phase tests SLOT before it comes to `tx`. -/
theorem invalidSlotRaisedBeforeAnyByte : Obligations.InvalidSlotRaisedBeforeAnyByte := by
  intro s k hi hslot hk
  have hk' : k.toNat < 1 ∨ 4 < k.toNat := hk.imp_left (by omega)
  refine ⟨fun hp => ?_, fun hp => ?_⟩
  · rw [step_gCmd hi hp, exec_get_gCmd hp, stepGCmd_invalidSlot hslot hk']
    obtain ⟨t, hraise, hrest⟩ := raise_aborted .get .invalidSlot s
    exact ⟨t, hraise, hraise, hrest⟩
  · rw [step_pCmd hi hp, exec_put_pCmd hp, stepPCmd_invalidSlot hslot hk']
    obtain ⟨t, hraise, hrest⟩ := raise_aborted .put .invalidSlot s
    exact ⟨t, hraise, hraise, hrest⟩

/-! ### A step that is one `tx` or one `rx` -/

/-- The outcome `r` is one `tx` of operation `o` from `s`: the transport's answer alone decides what
comes of it (R122). -/
def OffersByte (o : HostOp) (s : State) (r : Result) : Prop := ∃ b k, r = withTx o b s k

/-- The outcome `r` is one `rx` of operation `o` from `s` (R122). -/
def RequestsByte (o : HostOp) (s : State) (r : Result) : Prop := ∃ k, r = withRx o s k

theorem OffersByte.silent {r : Result} (h : OffersByte o s r) (htx : s.txAns = []) :
    r = .next s := by
  obtain ⟨b, k, rfl⟩ := h
  exact withTx_silent htx

theorem RequestsByte.silent {r : Result} (h : RequestsByte o s r) (hrx : s.rx = []) :
    r = .next s := by
  obtain ⟨k, rfl⟩ := h
  exact withRx_silent hrx

/-- Raising a fault after one answer to `tx` was used up: that answer is all the streams lose. -/
theorem raise_tx_aborted (o : HostOp) (c : ErrCode) (s : State) (as : List TxAnswer) :
    ∃ t, raise o c { s with txAns := as } = .next t ∧ t.tx = s.tx ∧ t.txAns = as ∧ t.rx = s.rx ∧
      State.Aborted o c s t :=
  ⟨_, rfl, by simp, by simp, by simp, State.abort_aborted_txAns o c s as⟩

/-- A failed send is the abort with the failure's code (R123). -/
theorem OffersByte.failed {r : Result} {a : TxAnswer} {c : ErrCode} {as : List TxAnswer}
    (h : OffersByte o s r) (htx : s.txAns = a :: as)
    (hfail : a = .txTimeout ∧ c = .transportTimeout ∨ a = .txError ∧ c = .transportError) :
    ∃ t, r = .next t ∧ t.tx = s.tx ∧ t.txAns = as ∧ t.rx = s.rx ∧ State.Aborted o c s t := by
  obtain ⟨b, k, rfl⟩ := h
  obtain ⟨rfl, rfl⟩ | ⟨rfl, rfl⟩ := hfail
  · rw [withTx_timeout htx]
    exact raise_tx_aborted ..
  · rw [withTx_error htx]
    exact raise_tx_aborted ..

/-- A failed receive is the abort with the failure's code (R124). -/
theorem RequestsByte.failed {r : Result} {a : RxAnswer} {c : ErrCode} {as : List RxAnswer}
    (h : RequestsByte o s r) (hrx : s.rx = a :: as)
    (hfail : a = .rxEos ∧ c = .protocolViolation ∨ a = .rxTimeout ∧ c = .transportTimeout ∨
      a = .rxError ∧ c = .transportError) :
    ∃ t, r = .next t ∧ t.rx = as ∧ t.tx = s.tx ∧ t.txAns = s.txAns ∧ State.Aborted o c s t := by
  obtain ⟨k, rfl⟩ := h
  obtain ⟨rfl, rfl⟩ | ⟨rfl, rfl⟩ | ⟨rfl, rfl⟩ := hfail
  · rw [withRx_eos hrx]
    exact raise_rx_aborted ..
  · rw [withRx_timeout hrx]
    exact raise_rx_aborted ..
  · rw [withRx_error hrx]
    exact raise_rx_aborted ..

/-! ### The phases that offer a byte: the byte is there -/

theorem stepGCmd_offersByte {k : Byte} (hslot : s.slot = some k)
    (hk : 1 ≤ k.toNat ∧ k.toNat ≤ 4) : OffersByte .get s (stepGCmd s) := by
  simp only [stepGCmd, hslot, getCommand_of_slot hk]
  exact ⟨_, _, rfl⟩

theorem stepPCmd_offersByte {k : Byte} (hslot : s.slot = some k)
    (hk : 1 ≤ k.toNat ∧ k.toNat ≤ 4) : OffersByte .put s (stepPCmd s) := by
  simp only [stepPCmd, hslot, putCommand_of_slot hk]
  exact ⟨_, _, rfl⟩

theorem stepPHdr_offersByte {c : Len} {b : Byte} (hcnt : s.cnt = some c)
    (hb : s.hdr.get c.toNat = some b) : OffersByte .put s (stepPHdr s) := by
  simp only [stepPHdr, hcnt, hb]
  exact ⟨_, _, rfl⟩

theorem stepPPay_offersByte {c e : Len} {m : Memory} {b : Byte} (hcnt : s.cnt = some c)
    (hexp : s.exp = some e) (hm : s.packed = some m) (hb : Memory.read m c.toNat = some b) :
    OffersByte .put s (stepPPay s) := by
  simp only [stepPPay, hcnt, hexp, hm, hb]
  exact ⟨_, _, rfl⟩

section
variable (hs : s.Inv) (hslot : ∀ k, s.slot = some k → 1 ≤ k.toNat ∧ k.toNat ≤ 4)
include hs hslot

theorem State.Inv.gCmd_offersByte (hp : s.phase = .gCmd) : OffersByte .get s (stepGCmd s) := by
  obtain ⟨hpresent, -⟩ := hs.getOpen (by rw [hp]; rfl)
  obtain ⟨k, hk⟩ := Option.isSome_iff_exists.1 hpresent
  exact stepGCmd_offersByte hk (hslot k hk)

theorem State.Inv.pCmd_offersByte (hp : s.phase = .pCmd) : OffersByte .put s (stepPCmd s) := by
  obtain ⟨_, _, _, hpresent, -⟩ := hs.putOpen (by rw [hp]; rfl)
  obtain ⟨k, hk⟩ := Option.isSome_iff_exists.1 hpresent
  exact stepPCmd_offersByte hk (hslot k hk)

end

/-- CNT is below 4 in P_HDR, so it stands at a byte of the header (R22, R23). -/
theorem State.Inv.pHdr_offersByte (hs : s.Inv) (hp : s.phase = .pHdr) :
    OffersByte .put s (stepPHdr s) := by
  have hphase := hs.phase
  rw [State.phaseInv, hp] at hphase
  obtain ⟨w, h, _, _, -, -, ⟨hhdr, -⟩, c, hcnt, hc⟩ := hphase
  have hlt : c.toNat < (headerBytes w h).length := hc
  have hget : s.hdr.get c.toNat = some (headerBytes w h)[c.toNat] := by
    rw [hhdr, Hdr.get_ofDims, List.getElem?_eq_getElem hlt]
  exact stepPHdr_offersByte hcnt hget

/-- CNT is below the length of the payload in P_PAY, so it stands at a byte of PACKED (R20, R22). -/
theorem State.Inv.pPay_offersByte (hs : s.Inv) (hp : s.phase = .pPay) :
    OffersByte .put s (stepPPay s) := by
  have hphase := hs.phase
  rw [State.phaseInv, hp] at hphase
  obtain ⟨_, _, _, p, -, ⟨-, hpacked, hlen⟩, ⟨-, hexp⟩, c, hcnt, hc⟩ := hphase
  have hlt : c.toNat < p.length := hc.trans_eq hlen.symm
  have hread : Memory.read (Memory.ofBytes p) c.toNat = some p[c.toNat] := by
    rw [Memory.read_ofBytes, List.getElem?_eq_getElem hlt]
  exact stepPPay_offersByte hcnt hexp hpacked hread

/-- In every phase that offers a byte the step is one `tx` of the phase's operation (R122). -/
theorem step_offersByte (hs : s.Inv) (hi : s.inputs = []) (hp : s.phase.offersTx = true)
    (hslot : ∀ k, s.slot = some k → 1 ≤ k.toNat ∧ k.toNat ≤ 4) :
    ∃ o, s.phase.op = some o ∧ OffersByte o s (step s) := by
  cases hph : s.phase <;> rw [hph] at hp <;> cases hp
  case gCmd => exact ⟨.get, rfl, step_gCmd hi hph ▸ hs.gCmd_offersByte hslot hph⟩
  case pCmd => exact ⟨.put, rfl, step_pCmd hi hph ▸ hs.pCmd_offersByte hslot hph⟩
  case pHdr => exact ⟨.put, rfl, step_pHdr hi hph ▸ hs.pHdr_offersByte hph⟩
  case pPay => exact ⟨.put, rfl, step_pPay hi hph ▸ hs.pPay_offersByte hph⟩

/-! ### The phases that request a byte: the place for it is there -/

theorem State.Inv.gHdr_requestsByte (hs : s.Inv) (hp : s.phase = .gHdr) :
    RequestsByte .get s (stepGHdr s) := by
  have hphase := hs.phase
  rw [State.phaseInv, hp] at hphase
  obtain ⟨-, -, -, c, hcnt, -⟩ := hphase
  simp only [stepGHdr, hcnt]
  exact ⟨_, rfl⟩

theorem State.Inv.gPay_requestsByte (hs : s.Inv) (hp : s.phase = .gPay) :
    RequestsByte .get s (stepGPay s) := by
  have hphase := hs.phase
  rw [State.phaseInv, hp] at hphase
  obtain ⟨-, _, _, _, ⟨-, -, -, hexp, hpacked, hcnt⟩, -⟩ := hphase
  simp only [stepGPay, hcnt, hexp, hpacked]
  exact ⟨_, rfl⟩

theorem State.Inv.pAck1_requestsByte (hs : s.Inv) (hp : s.phase = .pAck1) :
    RequestsByte .put s (stepPAck1 s) := by
  obtain ⟨_, _, _, -, hw, hh, -⟩ := hs.putOpen (by rw [hp]; rfl)
  simp only [stepPAck1, hw, hh]
  exact ⟨_, rfl⟩

/-- In every phase that requests a byte the step is one `rx` of the phase's operation (R122). -/
theorem step_requestsByte (hs : s.Inv) (hi : s.inputs = []) (hp : s.phase.requestsRx = true) :
    ∃ o, s.phase.op = some o ∧ RequestsByte o s (step s) := by
  cases hph : s.phase <;> rw [hph] at hp <;> cases hp
  case gAck => exact ⟨.get, rfl, _, step_gAck hi hph⟩
  case gHdr => exact ⟨.get, rfl, step_gHdr hi hph ▸ hs.gHdr_requestsByte hph⟩
  case gPay => exact ⟨.get, rfl, step_gPay hi hph ▸ hs.gPay_requestsByte hph⟩
  case pAck1 => exact ⟨.put, rfl, step_pAck1 hi hph ▸ hs.pAck1_requestsByte hph⟩
  case pAck2 => exact ⟨.put, rfl, _, step_pAck2 hi hph⟩

/-! ### Failed answers, and none -/

/-- Settles O23: in each of the four phases the step is one `tx`, which aborts on both failures. -/
theorem failedSendAborts : Obligations.FailedSendAborts := by
  intro s o as hs hi ho hp hslot
  obtain ⟨o', ho', hoffers⟩ := step_offersByte hs hi hp hslot
  obtain rfl : o' = o := Option.some.inj (ho'.symm.trans ho)
  exact ⟨fun htx => hoffers.failed htx (.inl ⟨rfl, rfl⟩),
    fun htx => hoffers.failed htx (.inr ⟨rfl, rfl⟩)⟩

/-- Settles O24: in each of the five phases the step is one `rx`, which aborts on every failure. -/
theorem failedReceiveAborts : Obligations.FailedReceiveAborts := by
  intro s o a c as hs hi ho hp hrx hfail
  obtain ⟨o', ho', hrequests⟩ := step_requestsByte hs hi hp
  obtain rfl : o' = o := Option.some.inj (ho'.symm.trans ho)
  exact hrequests.failed hrx hfail

/-- Settles O25: a `tx` or an `rx` without an answer leaves the state as it is. -/
theorem silentTransportHoldsTheCore : Obligations.SilentTransportHoldsTheCore := by
  intro s hs hi
  refine ⟨fun hp hslot htx => ?_, fun hp hrx => ?_⟩
  · obtain ⟨_, -, hoffers⟩ := step_offersByte hs hi hp hslot
    exact hoffers.silent htx
  · obtain ⟨_, -, hrequests⟩ := step_requestsByte hs hi hp
    exact hrequests.silent hrx

end Sys2Proof.Machine
end

section
/-! PROOFS. The preparation of a PUT (R144, R163, R166), and what START refuses (R195, R196,
R199). -/

namespace Sys2Proof.Machine

variable {s : State}

/-! ### P_PREP -/

theorem exec_put_pPrep (hp : s.phase = .pPrep) : exec .put s = stepPPrep s := by
  simp only [exec, execPut, hp]

section
variable {w h : Dim} {n : Len} {f : List Byte} (hw : s.w = some w) (hh : s.h = some h)
  (hn : s.flen = some n) (hcontent : contentOf s.flen s.full = some f)
include hw hh hn hcontent

/-- The length check is made before the codec sees the frame; the codec then rejects an odd area,
whose W*H*3 bytes are no whole pixel pairs. -/
theorem stepPPrep_fault
    (hfault : zeroDim w h = true ∨ n.toNat ≠ fullLength w h ∨ pixels w h % 2 = 1) :
    stepPPrep s = raise .put .formatError s := by
  have hflen := length_of_contentOf_eq hn hcontent
  rw [hn] at hcontent
  by_cases hz : zeroDim w h = true
  · simp [stepPPrep, hw, hh, hn, hcontent, hz]
  by_cases hlen : n.toNat = fullLength w h
  · have hodd : pixels w h % 2 = 1 := by simpa [hz, hlen] using hfault
    have hbuf : encodeBuf f = none :=
      encodeBuf_none (by simp only [fullLength] at hlen; omega)
    simp [stepPPrep, hw, hh, hn, hcontent, hlen, hbuf]
  · simp [stepPPrep, hw, hh, hn, hcontent, hlen]

theorem stepPPrep_encodes (hz : zeroDim w h = false) (hlen : n.toNat = fullLength w h)
    (heven : pixels w h % 2 = 0) :
    encodeBuf f = some (encodeGroups f) ∧ (encodeGroups f).length = packedLength w h ∧
      stepPPrep s = .next { s with
        packed := some (Memory.ofBytes (encodeGroups f)), phase := .pCmd } := by
  have hflen := length_of_contentOf_eq hn hcontent
  rw [hn] at hcontent
  simp only [fullLength] at hlen
  have hbuf : encodeBuf f = some (encodeGroups f) := encodeBuf_of_length (by omega)
  have hplen : (encodeGroups f).length = packedLength w h := by
    rw [length_encodeGroups, packedLength]
    omega
  refine ⟨hbuf, hplen, ?_⟩
  simp [stepPPrep, hw, hh, hn, hcontent, hz, fullLength, hlen, hbuf, hplen]

end

/-- Settles O29: the checks of P_PREP come to a zero dimension, a wrong length and an odd area. -/
theorem putPreparesItsFrame : Obligations.PutPreparesItsFrame := by
  intro s w h n f hp hw hh hn hcontent
  rw [exec_put_pPrep hp]
  refine ⟨fun hfault => ?_, fun hw0 hh0 hlen heven => ?_⟩
  · rw [← or_assoc, ← zeroDim_iff] at hfault
    rw [stepPPrep_fault hw hh hn hcontent hfault]
    exact raise_aborted ..
  · obtain ⟨hbuf, hplen, hstep⟩ :=
      stepPPrep_encodes hw hh hn hcontent (zeroDim_eq_false hw0 hh0) hlen heven
    exact ⟨_, _, hbuf, hplen, Memory.read_ofBytes _, hstep⟩

/-! ### START of the operation in OP -/

/-- The value of OP that stands for an operation (R13). -/
def HostOp.code : HostOp → OpCode
  | .get => 0
  | .put => 1
  | .decode => 2
  | .encode => 3

theorem exec_decodeOpreq_idle (hp : s.phase = .idle) (o : HostOp) :
    exec (decodeOpreq o.code) s = start o s := by
  cases o with
  | get => exact exec_get_idle hp
  | put => exact exec_put_idle hp
  | decode => exact exec_decode_idle hp
  | encode => exact exec_encode_idle hp

section
variable {v : Len} {rest : List Input} (hi : s.inputs = .writeReg 0 v :: rest)
  (hv : v.getLsbD 0 = true)
include hi hv

/-- START at rest is the START of the operation whose code OP holds (R149). -/
theorem step_start_idle (hb : s.status ≠ .busy) (hp : s.phase = .idle) (o : HostOp)
    (hop : s.op = some o.code) : step s = start o { s with inputs := rest } :=
  (step_start_op hi hv hb hop).trans (exec_decodeOpreq_idle (s := { s with inputs := rest }) hp o)

theorem step_start_busy (hb : s.status = .busy) : step s = .refused .hostWhileBusy :=
  (step_start hi hv).trans (fetchStart_busy (s := { s with inputs := rest }) hb)

theorem step_start_noOp (hb : s.status ≠ .busy) (hop : s.op = none) :
    step s = .refused .absentInput := by
  rw [step_start hi hv, outcome_fetchStart]
  simp only [hop, if_neg hb]

end

/-! ### The refused STARTs -/

theorem start_absent {o : HostOp} (hb : s.status ≠ .busy) (habsent : s.inputsPresent o = false) :
    start o s = .refused .absentInput := by
  simp [start, hb, habsent]

theorem start_tooLarge {o : HostOp} (hb : s.status ≠ .busy) (hpresent : s.inputsPresent o = true)
    (hlarge : s.inputTooLarge o = true) : start o s = .refused .overCapacity := by
  simp [start, hb, hpresent, hlarge]

theorem State.inputsPresent_put_eq_false_iff : s.inputsPresent .put = false ↔
    s.slot = none ∨ s.w = none ∨ s.h = none ∨ contentOf s.flen s.full = none := by
  simp only [State.inputsPresent, Bool.and_eq_false_iff, Option.isSome_eq_false_iff,
    Option.isNone_iff_eq_none, or_assoc]

/-- Settles O34: BUSY and OP are tested by the fetch, the inputs and the capacity by START. -/
theorem startIsRefused : Obligations.StartIsRefused := by
  intro s v rest hi hv
  refine ⟨step_start_busy hi hv, step_start_noOp hi hv, fun hb hp => ?_⟩
  have hstart := step_start_idle hi hv hb hp
  refine ⟨fun hop hslot => ?_, fun hop habsent => ?_, fun hop habsent => ?_,
    fun hop habsent => ?_, fun k w h f hop hslot hw hh hcontent hlt => ?_,
    fun n p hop hn hcontent hlt => ?_, fun n f hop hn hcontent hlt => ?_⟩
  · exact (hstart .get hop).trans (start_absent hb (by simp [State.inputsPresent, hslot]))
  · exact (hstart .put hop).trans
      (start_absent hb (State.inputsPresent_put_eq_false_iff.2 habsent))
  · exact (hstart .decode hop).trans (start_absent hb (by simp [State.inputsPresent, habsent]))
  · exact (hstart .encode hop).trans (start_absent hb (by simp [State.inputsPresent, habsent]))
  · exact (hstart .put hop).trans
      (start_tooLarge hb (by simp [State.inputsPresent, hslot, hw, hh, hcontent])
        (by rw [State.inputTooLarge, hw, hh]; exact decide_eq_true hlt))
  · exact (hstart .decode hop).trans
      (start_tooLarge hb (by simp only [State.inputsPresent, hcontent, Option.isSome_some])
        (by simpa [State.inputTooLarge, hn] using hlt))
  · exact (hstart .encode hop).trans
      (start_tooLarge hb (by simp only [State.inputsPresent, hcontent, Option.isSome_some])
        (by simpa [State.inputTooLarge, hn] using hlt))

end Sys2Proof.Machine
end

section
/-! PROOFS. ENCODE and then DECODE as one run from START to the second DONE (R140, R145, R146). -/

namespace Sys2Proof.Machine

variable {s : State}

/-! ### The two operations, each from START to DONE -/

/-- The one compute step of an ENCODE, the host leaving the turn to the sequencer (R146). -/
theorem cEnc_runs {n : Len} {f : List Byte} {rest : List Input}
    (hi : s.inputs = .proceed :: rest) (hp : s.phase = .cEnc) (hn : s.flen = some n)
    (hcontent : contentOf s.flen s.full = some f) (hmod : n.toNat % 6 = 0) :
    State.Runs 1 s { s with
      inputs := rest, packed := some (Memory.ofBytes (encodeGroups f))
      plen := some (BitVec.ofNat 34 (encodeGroups f).length)
      cnt := none, exp := none, hdr := Hdr.void, status := .done, phase := .idle } := by
  have hlen := length_of_contentOf_eq hn hcontent
  have hbuf : encodeBuf f = some (encodeGroups f) := encodeBuf_of_length (by omega)
  have henc := stepCEnc_of_encodeBuf (s := { s with inputs := rest }) hn hcontent hbuf
  rw [← hlen, ← length_encodeGroups] at henc
  refine State.runs_one ((step_of_input hi).trans ?_)
  rw [fetchInput, outcome_fetchSequencer, hp]
  exact henc

/-- The one compute step of a DECODE, no host move pending (R145). -/
theorem cDec_runs {n : Len} {p : List Byte} (hi : s.inputs = []) (hp : s.phase = .cDec)
    (hn : s.plen = some n) (hcontent : contentOf s.plen s.packed = some p)
    (hmod : n.toNat % 4 = 0) :
    State.Runs 1 s { s with
      full := some (Memory.ofBytes (decodeGroups p))
      flen := some (BitVec.ofNat 34 (decodeGroups p).length)
      cnt := none, exp := none, hdr := Hdr.void, status := .done, phase := .idle } := by
  have hlen := length_of_contentOf_eq hn hcontent
  have hbuf : decodeBuf p = some (decodeGroups p) := decodeBuf_of_length (by omega)
  have hdec := stepCDec_of_decodeBuf hn hcontent hbuf
  rw [← hlen, ← length_decodeGroups] at hdec
  refine State.runs_one ((step_of_no_input hi).trans ?_)
  rw [outcome_fetchSequencer, hp]
  exact hdec

/-- START of an ENCODE and its compute step (R146, R149). -/
theorem encode_runs {v n : Len} {f : List Byte} {rest : List Input} (hp : s.phase = .idle)
    (hb : s.status ≠ .busy) (hop : s.op = some 3)
    (hi : s.inputs = .writeReg 0 v :: .proceed :: rest) (hv : v.getLsbD 0 = true)
    (hn : s.flen = some n) (hcontent : contentOf s.flen s.full = some f) (hmod : n.toNat % 6 = 0)
    (hle : n.toNat ≤ 3 * s.maxPix) :
    State.Runs (1 + 1) s { s with
      inputs := rest, packed := some (Memory.ofBytes (encodeGroups f))
      plen := some (BitVec.ofNat 34 (encodeGroups f).length)
      cnt := none, exp := none, hdr := Hdr.void
      err := .none, status := .done, phase := .idle } := by
  have hstart : step s = .next (State.begin .encode { s with inputs := .proceed :: rest }) :=
    (step_start_idle hi hv hb hp .encode hop).trans (start_encode hb hn hcontent hle)
  exact (State.runs_one hstart).trans (cEnc_runs rfl rfl hn hcontent hmod)

/-- START of a DECODE and its compute step (R145, R149). -/
theorem decode_runs {v n : Len} {p : List Byte} (hp : s.phase = .idle)
    (hb : s.status ≠ .busy) (hop : s.op = some 2) (hi : s.inputs = [.writeReg 0 v])
    (hv : v.getLsbD 0 = true) (hn : s.plen = some n) (hcontent : contentOf s.plen s.packed = some p)
    (hmod : n.toNat % 4 = 0) (hle : n.toNat ≤ 2 * s.maxPix) :
    State.Runs (1 + 1) s { s with
      inputs := [], full := some (Memory.ofBytes (decodeGroups p))
      flen := some (BitVec.ofNat 34 (decodeGroups p).length)
      cnt := none, exp := none, hdr := Hdr.void
      err := .none, status := .done, phase := .idle } := by
  have hstart : step s = .next (State.begin .decode { s with inputs := [] }) :=
    (step_start_idle hi hv hb hp .decode hop).trans (start_decode hb hn hcontent hle)
  exact (State.runs_one hstart).trans (cDec_runs rfl rfl hn hcontent hmod)

/-! ### One after the other -/

/-- The host writes the code of an operation to OP, which keeps the low two bits (R11, R13). -/
theorem writeOp_runs {v : Len} {rest : List Input} (hb : s.status ≠ .busy)
    (hi : s.inputs = .writeReg 1 v :: rest) :
    State.Runs 1 s { s with inputs := rest, op := some (v.extractLsb' 0 2) } := by
  obtain ⟨hwrite, -⟩ := hostWriteReg_accepted (s := { s with inputs := rest }) hb v
  rw [BitVec.setWidth_eq_extractLsb' (by decide)] at hwrite
  exact State.runs_one ((step_writeReg hi (isStart_of_ne (by decide) v)).trans hwrite)

/-- Settles O56: ENCODE, the write of OP, and DECODE of what ENCODE left in PACKED; six bytes of
FULL are four of PACKED and six again. -/
theorem encodeThenDecodeRuns : Obligations.EncodeThenDecodeRuns := by
  intro s v o n f hp hb hop hn hcontent hmod hle _ hv ho hi
  have hfit := n.isLt
  have hflen := length_of_contentOf_eq hn hcontent
  have hplen := length_encodeGroups f
  have hglen : (decodeGroups (encodeGroups f)).length = n.toNat := by
    rw [length_decodeGroups]
    omega
  have hpfit : (BitVec.ofNat 34 (encodeGroups f).length).toNat = (encodeGroups f).length :=
    len_toNat_ofNat (by omega)
  have hpacked := contentOf_ofBytes (p := encodeGroups f) (by omega)
  have hfull := contentOf_ofBytes (p := decodeGroups (encodeGroups f)) (by omega)
  have hencode := encode_runs hp hb hop hi hv hn hcontent hmod hle
  have hwrite := hencode.trans (writeOp_runs (by simp) rfl)
  have hdecode := hwrite.trans
    (decode_runs rfl (by simp) (congrArg some ho) rfl hv rfl hpacked (by omega) (by dsimp; omega))
  refine ⟨_, _, _, encodeBuf_of_length (by omega), decodeBuf_of_length (by omega), hdecode, rfl,
    rfl, ?_, hfull, hpacked, rfl, rfl, rfl, rfl, rfl, rfl⟩
  simp [hglen]

end Sys2Proof.Machine
end

section
/-! PROOFS. The sequencer never stops (R140, R199, R200): under the invariant each phase finds what
it reads, so its step answers a next state, but for the fourth byte of a GET's header. -/

namespace Sys2Proof.Machine

variable {s : State} {o : HostOp}

/-- The outcome is a next state. -/
def GoesToNext (r : Result) : Prop := ∃ t, r = .next t

theorem goesToNext_next (t : State) : GoesToNext (.next t) := ⟨t, rfl⟩

theorem goesToNext_raise (o : HostOp) (c : ErrCode) (s : State) : GoesToNext (raise o c s) :=
  ⟨_, rfl⟩

theorem GoesToNext.ite {p : Prop} [Decidable p] {r r' : Result} (h : GoesToNext r)
    (h' : GoesToNext r') : GoesToNext (if p then r else r') := by
  split
  · exact h
  · exact h'

/-! ### The transport -/

theorem withTx_goesToNext {b : Byte} {k : State → Result}
    (hk : ∀ as, GoesToNext (k (s.sent b as))) : GoesToNext (withTx o b s k) := by
  rcases withTx_cases (rfl : withTx o b s k = _) with
    ⟨-, hr⟩ | ⟨as, -, hr⟩ | ⟨_, _, _, -, -, hr⟩
  · exact ⟨_, hr⟩
  · exact hr ▸ hk as
  · exact ⟨_, hr⟩

/-- An `rx` goes on unless a byte arrives and the step does not go on with it. -/
theorem RequestsByte.goesToNext_or_byte {r : Result} (h : RequestsByte o s r) :
    GoesToNext r ∨ ∃ b as, s.rx = .rxByte b :: as := by
  obtain ⟨k, hk⟩ := h
  rcases withRx_cases hk.symm with ⟨-, hr⟩ | ⟨b, as, hrx, -⟩ | ⟨_, _, _, -, -, hr⟩
  · exact .inl ⟨_, hr⟩
  · exact .inr ⟨b, as, hrx⟩
  · exact .inl ⟨_, hr⟩

theorem withRx_goesToNext {k : Byte → State → Result}
    (hk : ∀ b as, GoesToNext (k b { s with rx := as })) : GoesToNext (withRx o s k) := by
  obtain hnext | ⟨b, as, hrx⟩ := RequestsByte.goesToNext_or_byte (o := o) (s := s) ⟨k, rfl⟩
  · exact hnext
  · rw [withRx_byte hrx]
    exact hk b as

/-! ### What a sending phase reads is there -/

theorem Hdr.get_ofDims_isSome (w h : Dim) {i : Nat} (hi : i < 4) :
    ∃ b, (Hdr.ofDims w h).get i = some b := by
  have hlt : i < (headerBytes w h).length := hi
  exact ⟨_, (Hdr.get_ofDims w h i).trans (List.getElem?_eq_getElem hlt)⟩

theorem Memory.read_ofBytes_of_lt {p : List Byte} {i : Nat} (hi : i < p.length) :
    Memory.read (Memory.ofBytes p) i = some p[i] := by
  rw [Memory.read_ofBytes, List.getElem?_eq_getElem hi]

/-! ### The phases -/

theorem stepGCmd_goesToNext {k : Byte} (hslot : s.slot = some k) : GoesToNext (stepGCmd s) := by
  simp only [stepGCmd, hslot]
  split
  · exact goesToNext_raise ..
  · exact withTx_goesToNext fun _ => goesToNext_next _

theorem stepPCmd_goesToNext {k : Byte} (hslot : s.slot = some k) : GoesToNext (stepPCmd s) := by
  simp only [stepPCmd, hslot]
  split
  · exact goesToNext_raise ..
  · exact withTx_goesToNext fun _ => goesToNext_next _

theorem stepGAck_goesToNext (s : State) : GoesToNext (stepGAck s) :=
  withRx_goesToNext fun _ _ => .ite (goesToNext_next _) (goesToNext_raise ..)

theorem stepPAck1_goesToNext {w h : Dim} (hw : s.w = some w) (hh : s.h = some h) :
    GoesToNext (stepPAck1 s) := by
  simp only [stepPAck1, hw, hh]
  exact withRx_goesToNext fun _ _ => .ite (goesToNext_next _) (goesToNext_raise ..)

theorem stepPAck2_goesToNext (s : State) : GoesToNext (stepPAck2 s) :=
  withRx_goesToNext fun _ _ => .ite (goesToNext_next _) (goesToNext_raise ..)

theorem stepPHdr_goesToNext {c : Len} {b : Byte} (hcnt : s.cnt = some c)
    (hb : s.hdr.get c.toNat = some b) : GoesToNext (stepPHdr s) := by
  simp only [stepPHdr, hcnt, hb]
  exact withTx_goesToNext fun _ => .ite (goesToNext_next _) (goesToNext_next _)

theorem stepGPay_goesToNext {c e : Len} {m : Memory} (hcnt : s.cnt = some c)
    (hexp : s.exp = some e) (hm : s.packed = some m) : GoesToNext (stepGPay s) := by
  simp only [stepGPay, hcnt, hexp, hm]
  exact withRx_goesToNext fun _ _ => .ite (goesToNext_next _) (goesToNext_next _)

theorem stepPPay_goesToNext {c e : Len} {m : Memory} {b : Byte} (hcnt : s.cnt = some c)
    (hexp : s.exp = some e) (hm : s.packed = some m) (hb : Memory.read m c.toNat = some b) :
    GoesToNext (stepPPay s) := by
  simp only [stepPPay, hcnt, hexp, hm, hb]
  exact withTx_goesToNext fun _ => .ite (goesToNext_next _) (goesToNext_next _)

theorem stepGDec_goesToNext {w h : Dim} {p : List Byte} (hdims : s.hdr.dims = some (w, h))
    (hcontent : contentOf s.cnt s.packed = some p) (hlen : p.length = packedLength w h) :
    GoesToNext (stepGDec s) := by
  rcases Nat.mod_two_eq_zero_or_one (pixels w h) with heven | hodd
  · rw [stepGDec_even hdims hcontent hlen heven]
    exact goesToNext_next _
  · rw [stepGDec_odd hdims hcontent hlen hodd]
    exact goesToNext_raise ..

theorem stepPPrep_goesToNext {w h : Dim} {f : List Byte} (hw : s.w = some w) (hh : s.h = some h)
    (hcontent : contentOf s.flen s.full = some f) : GoesToNext (stepPPrep s) := by
  obtain ⟨n, hn, -⟩ := length_of_contentOf hcontent
  by_cases hfault : zeroDim w h = true ∨ n.toNat ≠ fullLength w h ∨ pixels w h % 2 = 1
  · rw [stepPPrep_fault hw hh hn hcontent hfault]
    exact goesToNext_raise ..
  · simp only [not_or, Bool.not_eq_true, not_not] at hfault
    obtain ⟨hz, hlen, heven⟩ := hfault
    obtain ⟨-, -, hstep⟩ := stepPPrep_encodes hw hh hn hcontent hz hlen (by omega)
    exact ⟨_, hstep⟩

theorem stepCDec_goesToNext {n : Len} {p : List Byte} (hn : s.plen = some n)
    (hcontent : contentOf s.plen s.packed = some p) : GoesToNext (stepCDec s) := by
  cases hbuf : decodeBuf p with
  | none => exact ⟨_, stepCDec_none hn hcontent hbuf⟩
  | some f => exact ⟨_, stepCDec_of_decodeBuf hn hcontent hbuf⟩

theorem stepCEnc_goesToNext {n : Len} {f : List Byte} (hn : s.flen = some n)
    (hcontent : contentOf s.flen s.full = some f) : GoesToNext (stepCEnc s) := by
  cases hbuf : encodeBuf f with
  | none => exact ⟨_, stepCEnc_none hn hcontent hbuf⟩
  | some p => exact ⟨_, stepCEnc_of_encodeBuf hn hcontent hbuf⟩

/-! ### The header of a GET: the one place where the sequencer can stop (R199, U5) -/

theorem pixels_le_defaultMaxPix (w h : Dim) : pixels w h ≤ Config.defaultMaxPix := by
  have hw := w.isLt
  have hh := h.isLt
  exact Nat.mul_le_mul (by omega) (by omega)

/-- The outcome `r` is the stop at the fourth header byte, MAXPIX being below what the 16-bit fields
can say. -/
def State.StopsAtHeader (s : State) (r : Result) : Prop :=
  r = .refused .overCapacity ∧ s.cnt = some 3 ∧ s.maxPix < Config.defaultMaxPix

/-- A complete header goes on, or it stops as one of more than MAXPIX pixels. -/
theorem headerReceived_goesToNext_or_stops {w h : Dim} (hdims : s.hdr.dims = some (w, h)) :
    GoesToNext (headerReceived s) ∨
      headerReceived s = .refused .overCapacity ∧ s.maxPix < Config.defaultMaxPix := by
  cases hz : zeroDim w h with
  | true =>
    rw [headerReceived_zero hdims hz]
    exact .inl (goesToNext_raise ..)
  | false =>
    rcases Nat.lt_or_ge s.maxPix (pixels w h) with hlt | hle
    · exact .inr ⟨headerReceived_tooLarge hdims hz hlt, hlt.trans_le (pixels_le_defaultMaxPix w h)⟩
    · exact .inl ⟨_, headerReceived_accepted hdims hz hle⟩

/-- The fourth byte completes a header whose first three are there. -/
theorem Hdr.dims_set_three {d : Hdr} (hgot : ∀ i, i < 3 → (d.get i).isSome = true) (b : Byte) :
    ∃ w h, (d.set 3 b).dims = some (w, h) := by
  obtain ⟨x0, h0⟩ := Option.isSome_iff_exists.1 (hgot 0 (by omega))
  obtain ⟨x1, h1⟩ := Option.isSome_iff_exists.1 (hgot 1 (by omega))
  obtain ⟨x2, h2⟩ := Option.isSome_iff_exists.1 (hgot 2 (by omega))
  rw [Hdr.set_three h0 h1 h2]
  exact ⟨_, _, rfl⟩

theorem stepGHdr_goesToNext_or_stops (hs : s.Inv) (hp : s.phase = .gHdr) :
    GoesToNext (stepGHdr s) ∨ s.StopsAtHeader (stepGHdr s) := by
  have hphase := hs.phase
  rw [State.phaseInv, hp] at hphase
  obtain ⟨-, -, -, c, hcnt, -, hgot⟩ := hphase
  obtain hnext | ⟨b, as, hrx⟩ := (hs.gHdr_requestsByte hp).goesToNext_or_byte
  · exact .inl hnext
  by_cases hlast : c + 1 = 4
  · obtain rfl : c = 3 := by bv_omega
    obtain ⟨w, h, hdims⟩ := Hdr.dims_set_three hgot b
    rw [stepGHdr_last hcnt hrx]
    exact (headerReceived_goesToNext_or_stops hdims).imp_right
      fun ⟨hrefused, hlt⟩ => ⟨hrefused, hcnt, hlt⟩
  · exact .inl ⟨_, stepGHdr_more hcnt hrx hlast⟩

/-! ### One step -/

/-- Under the invariant the sequencer's move is a next state, or the stop at a GET's header. -/
theorem fetchSequencer_goesToNext_or_stops (hs : s.Inv) : GoesToNext (fetchSequencer s).outcome ∨
    s.phase = .gHdr ∧ s.StopsAtHeader (fetchSequencer s).outcome := by
  have hphase := hs.phase
  rw [outcome_fetchSequencer]
  cases hp : s.phase <;> rw [State.phaseInv, hp] at hphase
  case idle => exact .inl (goesToNext_next s)
  case gCmd =>
    obtain ⟨⟨hpresent, -⟩, -⟩ := hphase
    obtain ⟨k, hslot⟩ := Option.isSome_iff_exists.1 hpresent
    exact .inl (stepGCmd_goesToNext hslot)
  case gAck => exact .inl (stepGAck_goesToNext s)
  case gHdr => exact (stepGHdr_goesToNext_or_stops hs hp).imp_right fun hstop => ⟨rfl, hstop⟩
  case gPay =>
    obtain ⟨-, w, h, p, ⟨-, -, -, hexp, hpacked, hcnt⟩, -⟩ := hphase
    exact .inl (stepGPay_goesToNext hcnt hexp hpacked)
  case gDec =>
    obtain ⟨-, w, h, p, ⟨hdims, -, -, -, hpacked, hcnt⟩, hlen⟩ := hphase
    have hcontent : contentOf s.cnt s.packed = some p := by
      rw [hcnt, hpacked, contentOf_ofBytes (hlen ▸ packedLength_lt w h)]
    exact .inl (stepGDec_goesToNext hdims hcontent hlen)
  case pPrep =>
    obtain ⟨w, h, f, ⟨-, hw, hh, hcontent, -⟩, -⟩ := hphase
    exact .inl (stepPPrep_goesToNext hw hh hcontent)
  case pCmd =>
    obtain ⟨w, h, f, p, ⟨hpresent, -⟩, -⟩ := hphase
    obtain ⟨k, hslot⟩ := Option.isSome_iff_exists.1 hpresent
    exact .inl (stepPCmd_goesToNext hslot)
  case pAck1 =>
    obtain ⟨w, h, f, p, ⟨-, hw, hh, -⟩, -⟩ := hphase
    exact .inl (stepPAck1_goesToNext hw hh)
  case pHdr =>
    obtain ⟨w, h, f, p, -, -, ⟨hhdr, -⟩, c, hcnt, hc⟩ := hphase
    obtain ⟨b, hb⟩ := Hdr.get_ofDims_isSome w h hc
    exact .inl (stepPHdr_goesToNext hcnt (hhdr ▸ hb))
  case pPay =>
    obtain ⟨w, h, f, p, -, ⟨-, hpacked, hlen⟩, ⟨-, hexp⟩, c, hcnt, hc⟩ := hphase
    exact .inl (stepPPay_goesToNext hcnt hexp hpacked (Memory.read_ofBytes_of_lt (hlen ▸ hc)))
  case pAck2 => exact .inl (stepPAck2_goesToNext s)
  case cDec =>
    obtain ⟨-, -, -, n, p, hn, hcontent, -⟩ := hphase
    exact .inl (stepCDec_goesToNext hn hcontent)
  case cEnc =>
    obtain ⟨-, -, -, n, f, hn, hcontent, -⟩ := hphase
    exact .inl (stepCEnc_goesToNext hn hcontent)

/-- Settles O46: the sequencer's move phase by phase; the stop at a header needs a MAXPIX below what
the 16-bit fields can say. -/
theorem sequencerNeverStops : Obligations.SequencerNeverStops := by
  intro s hs hi
  rw [step_of_no_input hi]
  obtain hnext | ⟨hp, hrefused, hcnt, hlt⟩ := fetchSequencer_goesToNext_or_stops hs
  · exact ⟨.inl hnext, fun _ => hnext⟩
  · exact ⟨.inr ⟨hrefused, hp, hcnt⟩, fun hmax => absurd hmax hlt.ne⟩

end Sys2Proof.Machine
end

section
/-! PROOFS. Faults (R167 to R169): only the sequencer's move turns STATUS to ERROR, and in every phase
it does so by the abort of that phase's operation. -/

namespace Sys2Proof.Machine

variable {s t : State} {o : HostOp}

/-- The abort of a header whose fourth byte has just been stored: HDR and CNT hold no value after it,
so what they held does not show. -/
theorem State.abort_aborted_header (c : ErrCode) (s : State) (as : List RxAnswer) (d : Hdr)
    (n : Option Len) :
    State.Aborted .get c s (State.abort .get c { s with rx := as, hdr := d, cnt := n }) :=
  State.abort_aborted_rx .get c s as

/-! ### Only the sequencer raises a fault -/

section
variable (hne : s.status ≠ .error) (herr : t.status = .error)
include hne herr

omit hne in
/-- A START that begins its operation leaves STATUS at BUSY (R149). -/
theorem fetchStart_fault (h : (fetchStart s).outcome = .next t) :
    (fetchSequencer s).outcome = .next t := by
  rw [outcome_fetchStart] at h
  split at h
  · cases h
  · split at h
    · cases h
    · obtain ⟨o, hstart⟩ | hseq := exec_decodeOpreq_next h
      · obtain ⟨-, -, -, rfl⟩ := start_next hstart
        cases herr
      · exact hseq

/-- A move of the host leaves STATUS alone, the reset input makes it IDLE (R30, R191). -/
theorem fetchInput_fault {i : Input} (h : (fetchInput i s).outcome = .next t) :
    (fetchSequencer s).outcome = .next t := by
  cases i with
  | proceed => exact h
  | writeReg n v =>
    simp only [fetchInput] at h
    split at h
    · exact fetchStart_fault herr h
    · obtain ⟨-, -, rfl | rfl | rfl | rfl | rfl | rfl | rfl⟩ := hostWriteReg_next h <;>
        exact absurd herr hne
  | readReg n =>
    obtain ⟨-, _, _, rfl⟩ := hostReadReg_next h
    exact absurd herr (by simpa using hne)
  | writeByte buf k b =>
    obtain ⟨-, rfl⟩ := hostWriteByte_next h
    exact absurd herr (by simpa using hne)
  | readByte buf k =>
    cases h
    exact absurd herr (by simpa using hne)
  | load buf bs =>
    obtain ⟨-, -, rfl⟩ := hostLoad_next h
    exact absurd herr (by simpa using hne)
  | reset =>
    cases h
    cases herr

/-- A step that turns STATUS to ERROR is the sequencer's move. -/
theorem step_fault (h : step s = .next t) :
    ∃ is, (fetchSequencer { s with inputs := is }).outcome = .next t := by
  cases hi : s.inputs with
  | nil => exact ⟨[], by rw [← h, step_of_no_input hi, ← hi]⟩
  | cons i rest =>
    rw [step_of_input hi] at h
    exact ⟨rest, fetchInput_fault hne herr h⟩

/-! ### A phase's step either leaves STATUS short of ERROR or is the abort -/

theorem TxStops.aborted (hstop : TxStops o s t) : State.Aborted o t.err s t := by
  obtain ⟨-, rfl⟩ | ⟨_, as, c, -, -, rfl⟩ := hstop
  · exact absurd herr hne
  · exact State.abort_aborted_txAns o c s as

theorem RxStops.aborted (hstop : RxStops o s t) : State.Aborted o t.err s t := by
  obtain ⟨-, rfl⟩ | ⟨_, as, c, -, -, rfl⟩ := hstop
  · exact absurd herr hne
  · exact State.abort_aborted_rx o c s as

theorem stepGCmd_aborted (h : stepGCmd s = .next t) : State.Aborted .get t.err s t := by
  obtain ⟨_, -, ⟨-, rfl⟩ | ⟨_, -, hstop | ⟨_, -, rfl⟩⟩⟩ := stepGCmd_next h
  · exact State.abort_aborted _ _ s
  · exact hstop.aborted hne herr
  · exact absurd herr hne

theorem stepGAck_aborted (h : stepGAck s = .next t) : State.Aborted .get t.err s t := by
  obtain hstop | ⟨_, as, -, ⟨-, rfl⟩ | ⟨-, rfl⟩⟩ := stepGAck_next h
  · exact hstop.aborted hne herr
  · exact absurd herr hne
  · exact State.abort_aborted_rx _ _ s as

theorem stepGHdr_aborted (h : stepGHdr s = .next t) : State.Aborted .get t.err s t := by
  obtain ⟨_, -, hstop | ⟨_, as, -, ⟨-, hend⟩ | ⟨-, rfl⟩⟩⟩ := stepGHdr_next h
  · exact hstop.aborted hne herr
  · obtain ⟨_, _, -, ⟨-, rfl⟩ | ⟨-, -, rfl⟩⟩ := headerReceived_next hend
    · exact State.abort_aborted_header _ s as _ _
    · exact absurd herr hne
  · exact absurd herr hne

theorem stepGPay_aborted (h : stepGPay s = .next t) : State.Aborted .get t.err s t := by
  obtain ⟨_, _, _, -, -, -, hstop | ⟨_, _, -, rfl⟩⟩ := stepGPay_next h
  · exact hstop.aborted hne herr
  · exact absurd herr hne

omit hne in
theorem stepGDec_aborted (h : stepGDec s = .next t) : State.Aborted .get t.err s t := by
  obtain ⟨_, _, _, -, -, ⟨-, rfl⟩ | ⟨_, -, -, rfl⟩⟩ := stepGDec_next h
  · exact State.abort_aborted _ _ s
  · cases herr

theorem stepPPrep_aborted (h : stepPPrep s = .next t) : State.Aborted .put t.err s t := by
  obtain ⟨_, _, _, _, -, -, -, -, ⟨-, rfl⟩ | ⟨_, -, -, -, -, rfl⟩⟩ := stepPPrep_next h
  · exact State.abort_aborted _ _ s
  · exact absurd herr hne

theorem stepPCmd_aborted (h : stepPCmd s = .next t) : State.Aborted .put t.err s t := by
  obtain ⟨_, -, ⟨-, rfl⟩ | ⟨_, -, hstop | ⟨_, -, rfl⟩⟩⟩ := stepPCmd_next h
  · exact State.abort_aborted _ _ s
  · exact hstop.aborted hne herr
  · exact absurd herr hne

theorem stepPAck1_aborted (h : stepPAck1 s = .next t) : State.Aborted .put t.err s t := by
  obtain ⟨_, _, -, -, hstop | ⟨_, as, -, ⟨-, rfl⟩ | ⟨-, rfl⟩⟩⟩ := stepPAck1_next h
  · exact hstop.aborted hne herr
  · exact absurd herr hne
  · exact State.abort_aborted_rx _ _ s as

theorem stepPHdr_aborted (h : stepPHdr s = .next t) : State.Aborted .put t.err s t := by
  obtain ⟨_, _, -, -, hstop | ⟨_, -, ⟨-, rfl⟩ | ⟨-, rfl⟩⟩⟩ := stepPHdr_next h
  · exact hstop.aborted hne herr
  · exact absurd herr hne
  · exact absurd herr hne

theorem stepPPay_aborted (h : stepPPay s = .next t) : State.Aborted .put t.err s t := by
  obtain ⟨_, _, _, _, -, -, -, -, hstop | ⟨_, -, rfl⟩⟩ := stepPPay_next h
  · exact hstop.aborted hne herr
  · exact absurd herr hne

theorem stepPAck2_aborted (h : stepPAck2 s = .next t) : State.Aborted .put t.err s t := by
  obtain hstop | ⟨_, as, -, ⟨-, rfl⟩ | ⟨-, rfl⟩⟩ := stepPAck2_next h
  · exact hstop.aborted hne herr
  · cases herr
  · exact State.abort_aborted_rx _ _ s as

omit hne in
theorem stepCDec_aborted (h : stepCDec s = .next t) : State.Aborted .decode t.err s t := by
  obtain ⟨_, _, -, -, ⟨-, rfl⟩ | ⟨_, -, rfl⟩⟩ := stepCDec_next h
  · exact State.abort_aborted _ _ s
  · cases herr

omit hne in
theorem stepCEnc_aborted (h : stepCEnc s = .next t) : State.Aborted .encode t.err s t := by
  obtain ⟨_, _, -, -, ⟨-, rfl⟩ | ⟨_, -, rfl⟩⟩ := stepCEnc_next h
  · exact State.abort_aborted _ _ s
  · cases herr

/-- The sequencer's move to ERROR: an operation runs, and the move is its abort. -/
theorem fetchSequencer_aborted (h : (fetchSequencer s).outcome = .next t) :
    ∃ o, s.phase.op = some o ∧ State.Aborted o t.err s t := by
  rw [outcome_fetchSequencer] at h
  cases hp : s.phase <;> rw [hp] at h
  case idle =>
    cases h
    exact absurd herr hne
  case gCmd => exact ⟨.get, rfl, stepGCmd_aborted hne herr h⟩
  case gAck => exact ⟨.get, rfl, stepGAck_aborted hne herr h⟩
  case gHdr => exact ⟨.get, rfl, stepGHdr_aborted hne herr h⟩
  case gPay => exact ⟨.get, rfl, stepGPay_aborted hne herr h⟩
  case gDec => exact ⟨.get, rfl, stepGDec_aborted herr h⟩
  case pPrep => exact ⟨.put, rfl, stepPPrep_aborted hne herr h⟩
  case pCmd => exact ⟨.put, rfl, stepPCmd_aborted hne herr h⟩
  case pAck1 => exact ⟨.put, rfl, stepPAck1_aborted hne herr h⟩
  case pHdr => exact ⟨.put, rfl, stepPHdr_aborted hne herr h⟩
  case pPay => exact ⟨.put, rfl, stepPPay_aborted hne herr h⟩
  case pAck2 => exact ⟨.put, rfl, stepPAck2_aborted hne herr h⟩
  case cDec => exact ⟨.decode, rfl, stepCDec_aborted herr h⟩
  case cEnc => exact ⟨.encode, rfl, stepCEnc_aborted herr h⟩

end

/-- Settles O50: the step is the sequencer's, its phase's abort; the code is not NONE because the step
keeps the invariant. -/
theorem everyFaultIsTheAbort : Obligations.EveryFaultIsTheAbort := by
  intro s t hs h herr hne
  obtain ⟨is, hseq⟩ := step_fault hne herr h
  obtain ⟨o, ho, habort⟩ := fetchSequencer_aborted (s := { s with inputs := is }) hne herr hseq
  have hcode : t.err ≠ .none := fun hnone => (everyStepKeepsInv s t hs h).err.1 hnone herr
  obtain ⟨rfl, -⟩ := habort.outside
  exact ⟨o, ho, hcode, habort⟩

end Sys2Proof.Machine
end
